-- ==== Sys2Proof/Word.lean ====
section
/-! DEFINITION. The words of the MBRTU block: bytes, 16-bit values, the host port's data and word index
(spec 00_scope R10, R11), and the two buffers a format S command word can name. -/

namespace Sys2Proof

/-- A byte, the spec's `u8` (00_scope R11). -/
abbrev Byte := BitVec 8

/-- A 16-bit value, the spec's `u16`: checksum, start address, register count, raw register value. -/
abbrev Half := BitVec 16

/-- A command word (30_encoding R90). -/
abbrev Command := BitVec 16

/-- The host port's data (00_scope R10). -/
abbrev Data := BitVec 32

/-- The host port's word index, 0x0000 to 0x1FFF (00_scope R10). -/
abbrev Index := BitVec 13

/-- The field `sel` of a format S command word: 0 names TX, 1 names RX (30_encoding R92). -/
inductive Sel where
  | tx
  | rx
  deriving DecidableEq, Repr

end Sys2Proof
end

