-- ==== Sys2Proof/Config.lean ====
section
/-! DEFINITION. What is fixed when the block is built (00_scope R4 to R9, 10_state R43) and the values the
spec leaves open. -/

namespace Sys2Proof

/-- The parameters of 00_scope R4, R5, R7, R8 and R9. -/
structure Params where
  /-- PAY_SIZE, the byte locations of PAY (R4). -/
  paySize : Nat
  /-- RX_SIZE, the byte locations of RX (R5). -/
  rxSize : Nat
  /-- STRICT_CRC: the parser rejects a wrong checksum (R7). -/
  strictCrc : Bool
  /-- SIGN_FIX: the signed value subtracts 65536 instead of 65535 (R8). -/
  signFix : Bool
  /-- HEX_UPPER: the letter case of `hex4` (R9). -/
  hexUpper : Bool
  deriving DecidableEq, Repr

/-- TX_SIZE = PAY_SIZE + 8 (00_scope R6). -/
def Params.txSize (p : Params) : Nat := p.paySize + 8

/-- RD_MAX, the entries of the readings memory (00_scope R6). -/
def rdMax : Nat := 127

/-- Where a command or the host reads a byte: two reads of one never-written location at different places
need not agree (20_memory R75). -/
inductive ReadSite where
  /-- A `HostRead`. -/
  | host
  /-- BUILD copying the payload. -/
  | payload
  /-- VERIFY and BUILD reading a frame. -/
  | frame
  /-- PARSE reading the declared byte count. -/
  | byteCount
  /-- PARSE reading the checked bytes and the checksum bytes. -/
  | checksum
  /-- PARSE reading the register data. -/
  | data
  deriving DecidableEq, Repr

/-- HEX_UPPER is OPEN, the spec takes no value (00_scope R9; log 7). -/
opaque Config.hexUpper : Bool

/-- FREE VALUE: the byte a never-written PAY, TX or RX location gives when it is read (20_memory R75; log 3),
for the transaction's number, the place of the read and the word index. -/
opaque Config.freeByte : Nat → ReadSite → Nat → Byte

/-- FREE VALUE: the `address` field of a never-written RD entry, for the transaction's number and the entry
(10_state R37; log 5). -/
opaque Config.freeAddress : Nat → Nat → BitVec 17

/-- FREE VALUE: the `raw` field of a never-written RD entry (10_state R37; log 5). -/
opaque Config.freeRaw : Nat → Nat → Half

/-- FREE VALUE: the `signed` field of a never-written RD entry (10_state R37; log 5). -/
opaque Config.freeSigned : Nat → Nat → Half

/-- "The value for this hardware" of every parameter (00_scope R4, R5, R7, R8; log 6). -/
def Config.params : Params where
  paySize := 1016
  rxSize := 1024
  strictCrc := false
  signFix := false
  hexUpper := Config.hexUpper

end Sys2Proof
end

