-- ==== Sys2Proof/Syntax.lean ====
section
/-! DEFINITION. The seven commands of the block, one constructor per row of spec/opcode_table.json
(30_encoding R93). -/

namespace Sys2Proof

/-- A command (30_encoding R93); its operand is what the format of R91 makes of `imm8`. -/
inductive Instr where
  /-- NOP, word 0x0000 (43_control R200). -/
  | nop
  /-- CRCINIT, word 0x0100 (40_crc R126). -/
  | crcinit
  /-- CRCUPD b, word 0x0200 + b (40_crc R127). -/
  | crcupd (b : Byte)
  /-- VERIFY TX or VERIFY RX, words 0x0300 and 0x0301 (40_crc R131). -/
  | verify (sel : Sel)
  /-- BUILD, word 0x0400 (41_frame_builder R151). -/
  | build
  /-- PARSE, word 0x0500 (42_response_parser R183). -/
  | parse
  /-- CLRF, word 0x0600 (43_control R201). -/
  | clrf
  deriving DecidableEq, Repr

end Sys2Proof
end

