-- ==== Sys2Proof/Script.lean ====
section
/-! DEFINITION. The host's vocabulary as plain data: the names of the registers and memories (10_state R20),
the transactions of the port (00_scope R14), and the statements and pseudo-instructions of the host script
(30_encoding R99, R100). What each statement stands for is in Machine/Script.lean. -/

namespace Sys2Proof

/-- The twelve registers of 10_state R20. -/
inductive Reg where
  | cmd | status | err | acc | unit | func | addr | count | plen | tlen | rlen | rdcnt
  deriving DecidableEq, Repr

/-- The three byte buffers (10_state R34 to R36). -/
inductive Buf where
  | pay | tx | rx
  deriving DecidableEq, Repr

/-- `<buf>` of the script's syntax: PAY, TX, RX or RD (30_encoding R99). -/
inductive Area where
  | pay | tx | rx | rd
  deriving DecidableEq, Repr

/-- One step of the host (00_scope R14). -/
inductive Txn where
  /-- `HostWrite(a, d)` (20_memory R61). -/
  | write (a : Index) (d : Data)
  /-- `HostRead(a)` (20_memory R62). -/
  | read (a : Index)
  /-- `Reset`, the `rst` line (70_reset R240). -/
  | reset
  deriving DecidableEq, Repr

/-- A statement of the host script (30_encoding R99). -/
inductive Stmt where
  /-- `WR <reg>, v` -/
  | wr (r : Reg) (v : Data)
  /-- `WR <buf>[i], v` -/
  | wrAt (m : Area) (i : Nat) (v : Data)
  /-- `RD <reg>` -/
  | rd (r : Reg)
  /-- `RD <buf>[i]` -/
  | rdAt (m : Area) (i : Nat)
  /-- `RD RD[k].A` -/
  | rdA (k : Nat)
  /-- `RD RD[k].V` -/
  | rdV (k : Nat)
  /-- `RESET` -/
  | reset
  /-- One of the seven commands. -/
  | cmd (i : Instr)
  deriving DecidableEq, Repr

/-- A pseudo-instruction of the host script (30_encoding R100). -/
inductive Pseudo where
  /-- `CRCSTR b0 ... b(n-1)` -/
  | crcstr (bs : List Byte)
  /-- `LDPAY b0 ... b(n-1)` -/
  | ldpay (bs : List Byte)
  /-- `LDRX b0 ... b(n-1)` -/
  | ldrx (bs : List Byte)
  /-- `SETREQ u, f, a, c` -/
  | setreq (u f : Byte) (a c : Half)
  deriving DecidableEq, Repr

end Sys2Proof
end

