-- ==== Sys2Proof/WellFormed.lean ====
section
/-! DEFINITION. Which terms are well formed. A command has no ill-formed term: `imm8` of format B takes every
byte and `sel` has two values (30_encoding R91, R92), and the types of Syntax.lean say so. The checks that
exist are on the parameters (00_scope R4, R5) and on the host script (00_scope R10, 30_encoding R100). -/

namespace Sys2Proof

/-- Every command is well formed: each operand's type holds exactly the values its format admits. -/
def Instr.wf : Instr → Bool
  | .nop => true
  | .crcinit => true
  | .crcupd _ => true
  | .verify _ => true
  | .build => true
  | .parse => true
  | .clrf => true

/-- The ranges of PAY_SIZE and RX_SIZE (00_scope R4, R5). -/
def Params.wf (p : Params) : Bool :=
  decide (p.paySize ≤ 1016) && decide (p.rxSize ≤ 1024)

/-- The first word index of each area (20_memory R60). -/
def Area.firstIndex : Area → Nat
  | .pay => 0x0400
  | .tx => 0x0800
  | .rx => 0x0C00
  | .rd => 0x1000

/-- A statement's word index has 13 bits (00_scope R10). -/
def Stmt.wf : Stmt → Bool
  | .wr _ _ => true
  | .wrAt m i _ => decide (m.firstIndex + i < 0x2000)
  | .rd _ => true
  | .rdAt m i => decide (m.firstIndex + i < 0x2000)
  | .rdA k => decide (0x1000 + 2 * k < 0x2000)
  | .rdV k => decide (0x1000 + 2 * k + 1 < 0x2000)
  | .reset => true
  | .cmd i => i.wf

/-- LDPAY "Needs n ≤ PAY_SIZE" and LDRX "Needs n ≤ RX_SIZE" (30_encoding R100). -/
def Pseudo.wf (p : Params) : Pseudo → Bool
  | .crcstr _ => true
  | .ldpay bs => decide (bs.length ≤ p.paySize)
  | .ldrx bs => decide (bs.length ≤ p.rxSize)
  | .setreq _ _ _ _ => true

end Sys2Proof
end

