-- ==== Sys2Proof/Decode.lean ====
section
/-! DEFINITION. Decoding a command word, total on all 65,536 words (30_encoding R90 to R94, R98), and the
encoder written from the same table. -/

namespace Sys2Proof

/-- Why a command word is illegal: the three classes of 30_encoding R94. They differ in name only; each raises
the one fault IllegalCommand (log 12). -/
inductive DecodeError where
  /-- `op` in 0x07 to 0xFF. -/
  | reservedOpcode (op : Byte)
  /-- `op` of format N and `imm8` not 0. -/
  | nonzeroImmediate (op imm8 : Byte)
  /-- `op` = 0x03 and `imm8[7:1]` not 0. -/
  | badSelector (imm8 : Byte)
  deriving DecidableEq, Repr

/-- The field `op`, bits 15 to 8 (30_encoding R90). -/
def opOf (w : Command) : Byte := w.extractLsb' 8 8

/-- The field `imm8`, bits 7 to 0 (30_encoding R90). -/
def immOf (w : Command) : Byte := w.extractLsb' 0 8

/-- Format N: `imm8` must be 0x00 (30_encoding R91). -/
def formatN (w : Command) (i : Instr) : Except DecodeError Instr :=
  if immOf w = 0 then .ok i else .error (.nonzeroImmediate (opOf w) (immOf w))

/-- Format B: `imm8` is the data byte, every value legal (30_encoding R91, R92). -/
def formatB (w : Command) (i : Byte → Instr) : Except DecodeError Instr :=
  .ok (i (immOf w))

/-- `sel` = 0 names TX, `sel` = 1 names RX (30_encoding R92). -/
def selOf (b : Bool) : Sel := if b then .rx else .tx

/-- Format S: `imm8[7:1]` must be 0 and `imm8[0]` is `sel` (30_encoding R91, R92). -/
def formatS (w : Command) (i : Sel → Instr) : Except DecodeError Instr :=
  if (immOf w).extractLsb' 1 7 = 0 then .ok (i (selOf ((immOf w).getLsbD 0)))
  else .error (.badSelector (immOf w))

/-- The command a word is, or the class of illegal words it is in (30_encoding R93, R94). -/
def decode (w : Command) : Except DecodeError Instr :=
  match (opOf w).toNat with
  | 0x00 => formatN w .nop
  | 0x01 => formatN w .crcinit
  | 0x02 => formatB w .crcupd
  | 0x03 => formatS w .verify
  | 0x04 => formatN w .build
  | 0x05 => formatN w .parse
  | 0x06 => formatN w .clrf
  | _ => .error (.reservedOpcode (opOf w))

/-- The word of a command (30_encoding R93, R99). -/
def encode : Instr → Command
  | .nop => 0x0000
  | .crcinit => 0x0100
  | .crcupd b => 0x0200 + b.setWidth 16
  | .verify .tx => 0x0300
  | .verify .rx => 0x0301
  | .build => 0x0400
  | .parse => 0x0500
  | .clrf => 0x0600

/-- The command `decode` reads from an instruction whose bits are `w`, numbered as spec/opcode_table.json
numbers them. Every instruction is one word of 16 bits, so the bits are the command word itself. -/
def decodeTableWord (nbits w : Nat) : Option Instr :=
  if nbits ≤ 16 ∧ w < 2 ^ 16 then (decode (BitVec.ofNat 16 w)).toOption else none

end Sys2Proof
end

