-- ==== Sys2Proof/Machine/Crc.lean ====
section
/-! DEFINITION. The checksum function of the Codec (40_crc R120 to R130) and the byte orders of the frames
(20_memory R64, R65). -/

namespace Sys2Proof.Machine

/-- The bit step `crc_bit` (40_crc R120). -/
def crcBit (a : Half) : Half :=
  if a.getLsbD 0 then (a >>> 1) ^^^ 0xA001#16 else a >>> 1

/-- The byte step `crc_byte`: the byte into the low half, then eight bit steps (40_crc R121). -/
def crcByte (a : Half) (b : Byte) : Half :=
  crcBit (crcBit (crcBit (crcBit (crcBit (crcBit (crcBit (crcBit (a ^^^ b.setWidth 16))))))))

/-- The accumulator's initial value (40_crc R122). -/
def crcInit : Half := 0xFFFF

/-- The checksum of a sequence, the left fold of the byte step from 0xFFFF (40_crc R122). -/
def checksum (s : List Byte) : Half := s.foldl crcByte crcInit

/-- Bits 7 to 0 (40_crc R129). -/
def lowByte (v : Half) : Byte := v.extractLsb' 0 8

/-- Bits 15 to 8 (40_crc R129). -/
def highByte (v : Half) : Byte := v.extractLsb' 8 8

/-- `{hi, lo}` (00_scope R11), the source's `(data[i] << 8) | data[i+1]` (00_scope R15, 42_response_parser R175). -/
def joinBytes (hi lo : Byte) : Half := (hi.setWidth 16 <<< 8) ||| lo.setWidth 16

/-- High byte first: the address and count fields (00_scope R12, 20_memory R64). -/
def be16 (v : Half) : List Byte := [highByte v, lowByte v]

/-- Low byte first: the checksum (00_scope R12, 20_memory R65, 40_crc R129). -/
def le16 (v : Half) : List Byte := [lowByte v, highByte v]

/-- The frame check `frame_ok` (40_crc R130); a sequence too short to hold a checksum gives false. -/
def frameOk (f : List Byte) : Bool :=
  if f.length < 2 then false
  else decide (checksum (f.take (f.length - 2)) =
    joinBytes (f.getD (f.length - 1) 0) (f.getD (f.length - 2) 0))

end Sys2Proof.Machine
end

