-- ==== Sys2Proof/Machine/State.lean ====
section
/-! DEFINITION. The state of the block (10_state R20), the host's side of its port as plain data, and the
reasons a step can stop. -/

namespace Sys2Proof.Machine

open Sys2Proof

/-- The kinds of fault of the block (60_exceptions R211). Raising one is an ordinary next state. -/
inductive Cause where
  /-- Code 1, BUILD with COUNT = 0. -/
  | invalidArgument
  /-- Code 2, PARSE with RLEN < 5. -/
  | truncatedHeader
  /-- Code 3, PARSE with fewer bytes than declared. -/
  | truncatedDeclared
  /-- Code 4, PARSE with an odd byte count. -/
  | oddByteCount
  /-- Code 5, PARSE with a wrong checksum when STRICT_CRC is true. -/
  | crcMismatch
  /-- Code 6, a command word that matches no command. -/
  | illegalCommand
  deriving DecidableEq, Repr

/-- An entry of the readings memory (10_state R37, 30_encoding R104). -/
structure Reading where
  /-- The register's address, 17 bits unsigned. -/
  address : BitVec 17
  /-- The raw value, unsigned. -/
  raw : Half
  /-- The signed value, a 16-bit two's complement pattern. -/
  signed : Half
  deriving DecidableEq, Repr

/-- What the port answered to the last transaction: h_rdata and h_err of 20_memory R76 (log 2). -/
inductive Answer where
  /-- No transaction since reset. -/
  | idle
  /-- An accepted `HostWrite`. -/
  | writeDone
  /-- An accepted `HostRead` and the data it returned. -/
  | readData (d : Data)
  /-- A `HostWrite` answered with a bus error. -/
  | writeRejected
  /-- A `HostRead` answered with a bus error and the data returned with it. -/
  | readRejected (d : Data)
  deriving DecidableEq, Repr

/-- Why the model stops with a fault. -/
inductive Fault where
  /-- A length register reaches past its buffer, so a command would read a location that does not exist.
  Raised by VERIFY, BUILD and PARSE, only in states that break 10_state R44, which no run from reset
  reaches. Safe: the model stops where the hardware has no such state (log 8). -/
  | noSuchLocation (b : Buf) (length : Nat)
  deriving DecidableEq, Repr

/-- Why the model gives an instruction no meaning. -/
inductive Refusal where
  /-- An instruction that has no meaning yet, raised by exec's arm alone. Safe: nothing is claimed of it. -/
  | notModelled (mnemonic : String)
  deriving DecidableEq, Repr

/-- The registers and memories of 10_state R20, then the model's own fields for the host's side of the port. -/
structure State where
  /-- ERR, the latched cause code (R23). -/
  err : BitVec 3
  /-- ACC, the checksum accumulator (R24). -/
  acc : Half
  /-- UNIT (R25). -/
  unit : Byte
  /-- FUNC (R26). -/
  func : Byte
  /-- ADDR (R27). -/
  addr : Half
  /-- COUNT (R28). -/
  count : Half
  /-- PLEN (R29). -/
  plen : BitVec 10
  /-- TLEN (R30). -/
  tlen : BitVec 11
  /-- RLEN (R31). -/
  rlen : BitVec 11
  /-- RDCNT (R32). -/
  rdcnt : BitVec 7
  /-- STATUS.CRC_OK (R40). -/
  crcOk : Bool
  /-- STATUS.RDV (R41). -/
  rdv : Bool
  /-- PAY, TX and RX: the bytes written since reset, keyed by word index, ascending (20_memory R60). -/
  mem : List Host.Cell
  /-- RD: the entries written since reset, ascending (R37). -/
  rd : List (Nat × Reading)
  /-- The model's own: the host's transactions still to come (log 1). -/
  script : List Txn
  /-- The model's own: the port's last answer (log 2). -/
  answer : Answer
  /-- The model's own: the number of the transaction, which free values are applied to (log 4). -/
  freeCtr : Nat
  deriving DecidableEq, Repr

/-- The state after `Reset` (10_state R45). CMD holds nothing, STATUS is derived, the memories are unspecified:
no location has been written. -/
def State.reset : State where
  err := 0
  acc := 0xFFFF
  unit := 0
  func := 0
  addr := 0
  count := 0
  plen := 0
  tlen := 0
  rlen := 0
  rdcnt := 0
  crcOk := false
  rdv := false
  mem := []
  rd := []
  script := []
  answer := .idle
  freeCtr := 0

end Sys2Proof.Machine
end

