-- ==== Sys2Proof/Machine/Ops.lean ====
section
/-! DEFINITION. The named operations over registers and memories: the sparse memories, reading and writing a
buffer byte (00_scope R13), raising a fault (60_exceptions R222), discarding in the Failed state (R223), and
what a transaction does to the model's own fields. -/

namespace Sys2Proof.Machine

/-- What a step or a meaning answers. -/
abbrev Result := Host.Outcome State Fault Refusal

/-- A memory that lists only what has been written: keys and values, ascending. -/
abbrev Sparse (α : Type) := List (Nat × α)

/-- The value written last at a key, if any. -/
def Sparse.get {α : Type} : Sparse α → Nat → Option α
  | [], _ => none
  | (a, x) :: m, k => if a = k then some x else Sparse.get m k

/-- Write a value at a key, keeping the keys ascending. -/
def Sparse.set {α : Type} : Sparse α → Nat → α → Sparse α
  | [], k, v => [(k, v)]
  | (a, x) :: m, k, v =>
    if k < a then (k, v) :: (a, x) :: m
    else if a = k then (k, v) :: m
    else (a, x) :: Sparse.set m k v

/-- The canonical form: keys strictly rising. An unlisted key has never been written, so no entry equals what
an unlisted key holds. -/
def Sparse.rising {α : Type} : Sparse α → Bool
  | [] => true
  | [_] => true
  | (a, _) :: (b, y) :: m => decide (a < b) && Sparse.rising ((b, y) :: m)

/-- The canonical form of the byte memory. -/
def Memory.wf (m : List Host.Cell) : Bool := Sparse.rising m

/-- The base word index of a buffer (20_memory R60). -/
def Buf.base : Buf → Nat
  | .pay => 0x0400
  | .tx => 0x0800
  | .rx => 0x0C00

/-- The number of byte locations of a buffer (10_state R34 to R36). -/
def Buf.size (p : Params) : Buf → Nat
  | .pay => p.paySize
  | .tx => p.txSize
  | .rx => p.rxSize

/-- The byte last written to location `i` of a buffer, if any (20_memory R74). -/
def State.written (s : State) (b : Buf) (i : Nat) : Option Byte :=
  Sparse.get s.mem (Buf.base b + i)

/-- `MemRead(B+i, 1)` (00_scope R13): the byte last written, or a free value where nothing has been written
since reset (20_memory R75; log 3). -/
def State.memRead (s : State) (site : ReadSite) (b : Buf) (i : Nat) : Byte :=
  (s.written b i).getD (Config.freeByte s.freeCtr site (Buf.base b + i))

/-- `MemWrite(B+i, 1, v)` (00_scope R13). -/
def State.memWrite (s : State) (b : Buf) (i : Nat) (v : Byte) : State :=
  { s with mem := Sparse.set s.mem (Buf.base b + i) v }

/-- `B[a : a+n]` as a sequence (00_scope R12, R13). -/
def State.slice (s : State) (site : ReadSite) (b : Buf) (a n : Nat) : List Byte :=
  (List.range' a n).map (s.memRead site b)

/-- Write a sequence from location `i` of a buffer on, in sequence order. -/
def State.memWriteSeq (s : State) (b : Buf) (i : Nat) : List Byte → State
  | [] => s
  | v :: vs => State.memWriteSeq (s.memWrite b i v) b (i + 1) vs

/-- Entry `k` of RD as last written, if ever (10_state R37). -/
def State.writtenRd (s : State) (k : Nat) : Option Reading := Sparse.get s.rd k

/-- Entry `k` of RD as a read gives it: an entry never written gives free fields (20_memory R75; log 5). -/
def State.readRd (s : State) (k : Nat) : Reading :=
  (s.writtenRd k).getD
    { address := Config.freeAddress s.freeCtr k
      raw := Config.freeRaw s.freeCtr k
      signed := Config.freeSigned s.freeCtr k }

/-- `RD[k] <- r`. -/
def State.writeRd (s : State) (k : Nat) (r : Reading) : State :=
  { s with rd := Sparse.set s.rd k r }

/-- Write readings into RD from entry `k` on, in order (42_response_parser R180). -/
def State.writeRdSeq (s : State) (k : Nat) : List Reading → State
  | [] => s
  | r :: rs => State.writeRdSeq (s.writeRd k r) (k + 1) rs

/-- The cause codes (60_exceptions R211). -/
def Cause.code : Cause → BitVec 3
  | .invalidArgument => 1
  | .truncatedHeader => 2
  | .truncatedDeclared => 3
  | .oddByteCount => 4
  | .crcMismatch => 5
  | .illegalCommand => 6

/-- `raise F` in a state that already holds F's own changes: ERR takes the cause code, the command ends and
nothing else changes (60_exceptions R222). -/
def State.raise (s : State) (c : Cause) : Result := .next { s with err := c.code }

/-- The precondition of every command but CLRF: in the Failed state, ERR ≠ 0, it is discarded
(60_exceptions R223). -/
def State.unlessFailed (s : State) (k : Result) : Result :=
  if s.err = 0 then k else .next s

/-- A command reads locations 0 to n − 1 of a buffer; a length past the buffer's size names a location that
does not exist (20_memory R60; log 8). -/
def withinBuffer (p : Params) (b : Buf) (n : Nat) (k : Result) : Result :=
  if n ≤ Buf.size p b then k else .fault (.noSuchLocation b n)

/-- The port has taken the first transaction of the script: the rest is still to come, and the transaction
has a number of its own for free values (log 1, log 4). -/
def State.popped (s : State) (rest : List Txn) : State :=
  { s with script := rest, freeCtr := s.freeCtr + 1 }

/-- The port answers the host (20_memory R76; log 2). -/
def State.answered (s : State) (a : Answer) : State := { s with answer := a }

/-- `Reset` in any state (70_reset R240): every register at its reset value, every location never written.
The host's remaining script and the free values' number are not the block's and stay (log 1, log 4). -/
def State.afterReset (s : State) : State :=
  { State.reset with script := s.script, freeCtr := s.freeCtr }

end Sys2Proof.Machine
end

