-- ==== Sys2Proof/Machine/Operands.lean ====
section
/-! DEFINITION. The operand forms of the commands (30_encoding R92): the buffer and length a selector names,
the request's fields in wire order (30_encoding R102), the host port's field-width check (10_state R46). -/

namespace Sys2Proof.Machine

/-- The buffer `sel` names (30_encoding R92). -/
def selBuf : Sel → Buf
  | .tx => .tx
  | .rx => .rx

/-- The length that goes with the buffer `sel` names (30_encoding R92). -/
def State.selLength (s : State) : Sel → Nat
  | .tx => s.tlen.toNat
  | .rx => s.rlen.toNat

/-- The first six bytes of a request: unit id, function code, start address and register count, the last two
big-endian (30_encoding R102, 20_memory R64). -/
def requestHeader (u f : Byte) (a c : Half) : List Byte := u :: f :: (be16 a ++ be16 c)

/-- The field-width check: `d[31:w] = 0` (10_state R46). -/
def fits (w : Nat) (d : Data) : Bool := decide (d.toNat < 2 ^ w)

end Sys2Proof.Machine
end

