-- ==== Sys2Proof/Machine/Flags.lean ====
section
/-! DEFINITION. The three status flags: FAULTED follows ERR (10_state R39), CRC_OK is a checksum comparison
(R40), RDV says PARSE succeeded (R41); and STATUS made of them (R22). -/

namespace Sys2Proof.Machine

/-- FAULTED, "the value of the expression ERR ≠ 0" (10_state R39). -/
def State.faulted (s : State) : Bool := decide (s.err ≠ 0)

/-- The comparison CRC_OK takes: the checksum's low byte, then its high byte (40_crc R131,
42_response_parser R184). -/
def crcMatches (c : Half) (lo hi : Byte) : Bool := decide (lowByte c = lo) && decide (highByte c = hi)

/-- A flag as a bit of a port word. -/
def flagBit (b : Bool) (n : Nat) : Data := if b then 1#32 <<< n else 0#32

/-- STATUS on the port: FAULTED, CRC_OK and RDV in bits 0, 1 and 2, the rest 0 (10_state R22). -/
def State.statusWord (s : State) : Data :=
  flagBit s.faulted 0 ||| flagBit s.crcOk 1 ||| flagBit s.rdv 2

end Sys2Proof.Machine
end

