-- ==== Sys2Proof/Machine/Builder.lean ====
section
/-! DEFINITION. The Frame Builder: the function `build_request` (41_frame_builder R150) and the command BUILD
(R151). -/

namespace Sys2Proof.Machine

/-- `build_request` (41_frame_builder R150, R155): the frame of 30_encoding R102. -/
def buildRequest (u f : Byte) (a c : Half) (payload : List Byte) : Except Cause (List Byte) :=
  if c = 0 then .error .invalidArgument
  else
    let body := requestHeader u f a c ++ payload
    .ok (body ++ le16 (checksum body))

/-- The bytes BUILD has written before the checksum: the header, then the payload as read from PAY
(41_frame_builder R151). -/
def State.buildBody (s : State) : State :=
  let headed := s.memWriteSeq .tx 0 (requestHeader s.unit s.func s.addr s.count)
  headed.memWriteSeq .tx 6 (headed.slice .payload .pay 0 s.plen.toNat)

/-- BUILD with COUNT not 0: the checksum is taken over the bytes just written to TX (41_frame_builder R151). -/
def State.buildFrame (s : State) : State :=
  let n := s.plen.toNat
  let body := s.buildBody
  let k := checksum (body.slice .frame .tx 0 (6 + n))
  { body.memWriteSeq .tx (6 + n) (le16 k) with
    tlen := BitVec.ofNat 11 (8 + n)
    acc := k }

/-- BUILD once the Failed state is excluded (41_frame_builder R151). -/
def buildCmd (p : Params) (s : State) : Result :=
  if s.count = 0 then State.raise { s with tlen := 0 } .invalidArgument
  else withinBuffer p .pay s.plen.toNat (.next s.buildFrame)

/-- BUILD (41_frame_builder R151). -/
def execBuild (s : State) : Result := s.unlessFailed (buildCmd Config.params s)

end Sys2Proof.Machine
end

