-- ==== Sys2Proof/Machine/Checksum.lean ====
section
/-! DEFINITION. CRCINIT, CRCUPD and VERIFY (40_crc R126, R127, R131). -/

namespace Sys2Proof.Machine

/-- CRCINIT: ACC <- 0xFFFF (40_crc R126). -/
def execCrcinit (s : State) : Result :=
  s.unlessFailed (.next { s with acc := crcInit })

/-- CRCUPD b: ACC <- crc_byte(ACC, b) (40_crc R127). -/
def execCrcupd (b : Byte) (s : State) : Result :=
  s.unlessFailed (.next { s with acc := crcByte s.acc b })

/-- VERIFY over n bytes of a buffer (40_crc R131). -/
def verifyFrame (p : Params) (b : Buf) (n : Nat) (s : State) : Result :=
  if n < 2 then .next { s with crcOk := false }
  else
    withinBuffer p b n <|
      let c := checksum (s.slice .frame b 0 (n - 2))
      .next { s with
        acc := c
        crcOk := crcMatches c (s.memRead .frame b (n - 2)) (s.memRead .frame b (n - 1)) }

/-- VERIFY sel (40_crc R131). -/
def execVerify (sel : Sel) (s : State) : Result :=
  s.unlessFailed (verifyFrame Config.params (selBuf sel) (s.selLength sel) s)

end Sys2Proof.Machine
end

