-- ==== Sys2Proof/Machine/Control.lean ====
section
/-! DEFINITION. NOP and CLRF (43_control R200, R201). -/

namespace Sys2Proof.Machine

/-- NOP: no change of state (43_control R200). -/
def execNop (s : State) : Result := s.unlessFailed (.next s)

/-- CLRF: ERR <- 0, in the Failed state too (43_control R201). -/
def execClrf (s : State) : Result := .next { s with err := 0 }

end Sys2Proof.Machine
end

