-- ==== Sys2Proof/Machine/Parser.lean ====
section
/-! DEFINITION. The Response Parser: the function `parse_response` (42_response_parser R170 to R182) and the
command PARSE (R183). -/

namespace Sys2Proof.Machine

/-- The signed value of a reading as an integer: subtract 65535, or 65536 with SIGN_FIX
(42_response_parser R177). -/
def signedValue (signFix : Bool) (raw : Half) : Int :=
  if raw.toNat ≥ 32768 then (raw.toNat : Int) - (if signFix then 65536 else 65535) else raw.toNat

/-- The 16-bit pattern the `signed` field stores (42_response_parser R178). -/
def signed16 (signFix : Bool) (raw : Half) : Half :=
  if signFix then raw else if raw.getLsbD 15 then raw + 1 else raw

/-- Reading k made of the two bytes of its slice: raw big-endian (R175), address start + k in 17 bits without
wrap (R176), signed pattern (R178). -/
def readingOf (p : Params) (start : Half) (k : Nat) (hi lo : Byte) : Reading :=
  let raw := joinBytes hi lo
  { address := start.setWidth 17 + BitVec.ofNat 17 k
    raw := raw
    signed := signed16 p.signFix raw }

/-- The n / 2 readings of n register data bytes, the byte at offset i of the response being `byte i`
(42_response_parser R175, R180). -/
def readingsOf (p : Params) (start : Half) (n : Nat) (byte : Nat → Byte) : List Reading :=
  (List.range' 0 (n / 2)).map fun k => readingOf p start k (byte (3 + 2 * k)) (byte (4 + 2 * k))

/-- `resp_crc_ok`, with n the declared byte count (42_response_parser R184). -/
def respCrcOk (raw : List Byte) (n : Nat) : Bool :=
  decide (checksum (raw.take (3 + n)) = joinBytes (raw.getD (4 + n) 0) (raw.getD (3 + n) 0))

/-- `parse_response` (42_response_parser R170): checks 1 to 4 in order, then the readings. -/
def parseResponse (p : Params) (raw : List Byte) (start : Half) : Except Cause (List Reading) :=
  if raw.length < 5 then .error .truncatedHeader
  else
    let n := (raw.getD 2 0).toNat
    if raw.length < 3 + n + 2 then .error .truncatedDeclared
    else if p.strictCrc && !respCrcOk raw n then .error .crcMismatch
    else if n % 2 = 1 then .error .oddByteCount
    else .ok (readingsOf p start n fun i => raw.getD i 0)

/-- What a PARSE that faults leaves in RDCNT and RDV (42_response_parser R183). -/
def State.noReadings (s : State) : State := { s with rdcnt := 0, rdv := false }

/-- PARSE past check 2, with n the declared byte count: the comparison, checks 3 and 4, the decoding
(42_response_parser R183). -/
def parseDeclared (p : Params) (n : Nat) (s : State) : Result :=
  let c := checksum (s.slice .checksum .rx 0 (3 + n))
  let ok := crcMatches c (s.memRead .checksum .rx (3 + n)) (s.memRead .checksum .rx (4 + n))
  let checked := { s with acc := c, crcOk := ok }
  if p.strictCrc && !ok then checked.noReadings.raise .crcMismatch
  else if n % 2 = 1 then checked.noReadings.raise .oddByteCount
  else
    .next { checked.writeRdSeq 0 (readingsOf p s.addr n (s.memRead .data .rx)) with
      rdcnt := BitVec.ofNat 7 (n / 2)
      rdv := true }

/-- The byte count PARSE reads from RX[2] (42_response_parser R172). -/
def State.byteCount (s : State) : Nat := (s.memRead .byteCount .rx 2).toNat

/-- PARSE once the Failed state is excluded (42_response_parser R183). -/
def parseCmd (p : Params) (s : State) : Result :=
  let len := s.rlen.toNat
  if len < 5 then State.raise { s.noReadings with crcOk := false } .truncatedHeader
  else
    withinBuffer p .rx len <|
      if len < 3 + s.byteCount + 2 then State.raise { s.noReadings with crcOk := false } .truncatedDeclared
      else parseDeclared p s.byteCount s

/-- PARSE (42_response_parser R183). -/
def execParse (s : State) : Result := s.unlessFailed (parseCmd Config.params s)

/-- One hexadecimal digit (42_response_parser R179). -/
def hexDigit (upper : Bool) (d : BitVec 4) : Char :=
  if d.toNat < 10 then Char.ofNat (48 + d.toNat)
  else Char.ofNat ((if upper then 65 else 97) + (d.toNat - 10))

/-- `hex4`: four digits, most significant first (42_response_parser R179). -/
def hex4 (upper : Bool) (v : Half) : List Char :=
  [hexDigit upper (v.extractLsb' 12 4), hexDigit upper (v.extractLsb' 8 4),
   hexDigit upper (v.extractLsb' 4 4), hexDigit upper (v.extractLsb' 0 4)]

/-- `raw_hex` of a reading, in this hardware's open letter case (30_encoding R104; log 7). -/
def Reading.rawHex (r : Reading) : List Char := hex4 Config.params.hexUpper r.raw

end Sys2Proof.Machine
end

