-- ==== Sys2Proof/Machine/Dispatch.lean ====
section
/-! DEFINITION. One arm per command (30_encoding R98). -/

namespace Sys2Proof.Machine

def exec (i : Instr) (s : State) : Host.Outcome State Fault Refusal :=
  match i with
  | .nop => Sys2Proof.Machine.execNop s
  | .crcinit => Sys2Proof.Machine.execCrcinit s
  | .crcupd b => Sys2Proof.Machine.execCrcupd b s
  | .verify sel => Sys2Proof.Machine.execVerify sel s
  | .build => Sys2Proof.Machine.execBuild s
  | .parse => Sys2Proof.Machine.execParse s
  | .clrf => Sys2Proof.Machine.execClrf s

end Sys2Proof.Machine
end

