-- ==== Sys2Proof/Machine/Port.lean ====
section
/-! DEFINITION. The host port: the address map (20_memory R60), `HostWrite` and `HostRead` (R61, R62), bus
errors (R63), and issuing a command word (30_encoding R98). -/

namespace Sys2Proof.Machine

/-- The register's word index (10_state R20). -/
def Reg.index : Reg → Nat
  | .cmd => 0x00
  | .status => 0x01
  | .err => 0x02
  | .acc => 0x03
  | .unit => 0x04
  | .func => 0x05
  | .addr => 0x06
  | .count => 0x07
  | .plen => 0x08
  | .tlen => 0x09
  | .rlen => 0x0A
  | .rdcnt => 0x0B

/-- The register at a word index (10_state R20, R33). -/
def regAt : Nat → Option Reg
  | 0x00 => some .cmd
  | 0x01 => some .status
  | 0x02 => some .err
  | 0x03 => some .acc
  | 0x04 => some .unit
  | 0x05 => some .func
  | 0x06 => some .addr
  | 0x07 => some .count
  | 0x08 => some .plen
  | 0x09 => some .tlen
  | 0x0A => some .rlen
  | 0x0B => some .rdcnt
  | _ => none

/-- What a word index names (20_memory R60). -/
inductive Place where
  /-- One of the twelve registers. -/
  | reg (r : Reg)
  /-- Location i of a byte buffer. -/
  | byte (b : Buf) (i : Nat)
  /-- The first word of RD entry k. -/
  | rdAddress (k : Nat)
  /-- The second word of RD entry k. -/
  | rdValue (k : Nat)
  /-- Nothing. -/
  | reserved
  deriving DecidableEq, Repr

/-- Location `n - base` of a buffer, when word index `n` is one of its locations. -/
def bufferAt (p : Params) (b : Buf) (n : Nat) : Option Place :=
  if Buf.base b ≤ n ∧ n < Buf.base b + Buf.size p b then some (.byte b (n - Buf.base b)) else none

/-- The RD word at a word index (10_state R37, 20_memory R60). -/
def readingAt (n : Nat) : Option Place :=
  if 0x1000 ≤ n ∧ n < 0x1000 + 2 * rdMax then
    some (if n % 2 = 0 then .rdAddress ((n - 0x1000) / 2) else .rdValue ((n - 0x1000) / 2))
  else none

/-- The address map (20_memory R60). -/
def place (p : Params) (a : Index) : Place :=
  ((regAt a.toNat).map Place.reg
    <|> bufferAt p .pay a.toNat
    <|> bufferAt p .tx a.toNat
    <|> bufferAt p .rx a.toNat
    <|> readingAt a.toNat).getD .reserved

/-- A register on the port, zero-extended; CMD reads as 0 (20_memory R62, 10_state R21). -/
def State.regRead (s : State) : Reg → Data
  | .cmd => 0
  | .status => s.statusWord
  | .err => s.err.setWidth 32
  | .acc => s.acc.setWidth 32
  | .unit => s.unit.setWidth 32
  | .func => s.func.setWidth 32
  | .addr => s.addr.setWidth 32
  | .count => s.count.setWidth 32
  | .plen => s.plen.setWidth 32
  | .tlen => s.tlen.setWidth 32
  | .rlen => s.rlen.setWidth 32
  | .rdcnt => s.rdcnt.setWidth 32

/-- A write of a read-write register that passes the check of 10_state R46, or none for a bus error; the
read-only registers take no write (20_memory R63), and CMD stores nothing (10_state R21). -/
def State.regWrite (p : Params) (s : State) (r : Reg) (d : Data) : Option State :=
  match r with
  | .unit => if fits 8 d then some { s with unit := d.setWidth 8 } else none
  | .func => if fits 8 d then some { s with func := d.setWidth 8 } else none
  | .addr => if fits 16 d then some { s with addr := d.setWidth 16 } else none
  | .count => if fits 16 d then some { s with count := d.setWidth 16 } else none
  | .plen => if fits 10 d && decide (d.toNat ≤ p.paySize) then some { s with plen := d.setWidth 10 } else none
  | .rlen => if fits 11 d && decide (d.toNat ≤ p.rxSize) then some { s with rlen := d.setWidth 11 } else none
  | .cmd | .status | .err | .acc | .tlen | .rdcnt => none

/-- Issue a command word (30_encoding R98): decode and execute; an illegal word raises IllegalCommand, or is
discarded in the Failed state like any other command (30_encoding R94, 60_exceptions R217, R221, R223). -/
def issue (w : Command) (s : State) : Result :=
  match decode w with
  | .ok i => exec i s
  | .error _ => s.unlessFailed (s.raise .illegalCommand)

/-- The write an accepted `HostWrite` makes at a place other than CMD; none for a bus error
(20_memory R61, R63). -/
def State.placeWrite (p : Params) (s : State) (l : Place) (d : Data) : Option State :=
  match l with
  | .reg r => s.regWrite p r d
  | .byte .pay i => if fits 8 d then some (s.memWrite .pay i (d.setWidth 8)) else none
  | .byte .rx i => if fits 8 d then some (s.memWrite .rx i (d.setWidth 8)) else none
  | .byte .tx _ => none
  | .rdAddress _ => none
  | .rdValue _ => none
  | .reserved => none

/-- A `HostWrite` that is not a command: the write and its answer, or a bus error that changes nothing
(20_memory R61, R63; log 9). -/
def State.storeAt (p : Params) (s : State) (l : Place) (d : Data) : State :=
  match s.placeWrite p l d with
  | some t => t.answered .writeDone
  | none => s.answered .writeRejected

/-- `HostWrite(a, d)` (20_memory R61): a write to CMD with `d[31:16] = 0` issues the command word `d[15:0]`
(10_state R21, 30_encoding R97). -/
def hostWrite (p : Params) (a : Index) (d : Data) (s : State) : Result :=
  match place p a with
  | .reg .cmd =>
    if fits 16 d then issue (d.setWidth 16) (s.answered .writeDone) else .next (s.answered .writeRejected)
  | l => .next (s.storeAt p l d)

/-- The second word of an RD entry, `{signed, raw}` (10_state R37). -/
def Reading.valueWord (r : Reading) : Data := (r.signed.setWidth 32 <<< 16) ||| r.raw.setWidth 32

/-- The data of a `HostRead` at a place, or none for a bus error (20_memory R62). -/
def State.placeRead (s : State) (l : Place) : Option Data :=
  match l with
  | .reg r => some (s.regRead r)
  | .byte b i => some ((s.memRead .host b i).setWidth 32)
  | .rdAddress k => some ((s.readRd k).address.setWidth 32)
  | .rdValue k => some (s.readRd k).valueWord
  | .reserved => none

/-- `HostRead(a)` (20_memory R62); a rejected one returns 0 (R63). -/
def hostRead (p : Params) (a : Index) (s : State) : Result :=
  match s.placeRead (place p a) with
  | some d => .next (s.answered (.readData d))
  | none => .next (s.answered (.readRejected 0))

/-- One transaction of the host (00_scope R14). -/
def transact (t : Txn) (s : State) : Result :=
  match t with
  | .write a d => hostWrite Config.params a d s
  | .read a => hostRead Config.params a s
  | .reset => .next s.afterReset

end Sys2Proof.Machine
end

