-- ==== Sys2Proof/Machine/Script.lean ====
section
/-! DEFINITION. What the statements and pseudo-instructions of the host script stand for
(30_encoding R99, R100). -/

namespace Sys2Proof.Machine

/-- The word index of a register as the port takes it. -/
def Reg.word (r : Reg) : Index := BitVec.ofNat 13 (Reg.index r)

/-- The word index `base + i` of an area. -/
def Area.word (m : Area) (i : Nat) : Index := BitVec.ofNat 13 (m.firstIndex + i)

/-- `HostWrite(CMD, w)` for a command's word (30_encoding R99). -/
def commandTxn (i : Instr) : Txn := .write (Reg.word .cmd) ((encode i).setWidth 32)

/-- The transaction of a statement (30_encoding R99). -/
def Stmt.txn : Stmt → Txn
  | .wr r v => .write (Reg.word r) v
  | .wrAt m i v => .write (Area.word m i) v
  | .rd r => .read (Reg.word r)
  | .rdAt m i => .read (Area.word m i)
  | .rdA k => .read (BitVec.ofNat 13 (0x1000 + 2 * k))
  | .rdV k => .read (BitVec.ofNat 13 (0x1000 + 2 * k + 1))
  | .reset => .reset
  | .cmd i => commandTxn i

/-- `WR m[i], b0; WR m[i+1], b1; ...`. -/
def loadFrom (m : Area) (i : Nat) : List Byte → List Stmt
  | [] => []
  | b :: bs => .wrAt m i (b.setWidth 32) :: loadFrom m (i + 1) bs

/-- The expansion of a pseudo-instruction (30_encoding R100). -/
def Pseudo.expand : Pseudo → List Stmt
  | .crcstr bs => .cmd .crcinit :: bs.map fun b => .cmd (.crcupd b)
  | .ldpay bs => loadFrom .pay 0 bs ++ [.wr .plen (BitVec.ofNat 32 bs.length)]
  | .ldrx bs => loadFrom .rx 0 bs ++ [.wr .rlen (BitVec.ofNat 32 bs.length)]
  | .setreq u f a c =>
    [.wr .unit (u.setWidth 32), .wr .func (f.setWidth 32), .wr .addr (a.setWidth 32), .wr .count (c.setWidth 32)]

/-- The transactions of a pseudo-instruction. -/
def Pseudo.txns (q : Pseudo) : List Txn := (Pseudo.expand q).map Stmt.txn

end Sys2Proof.Machine
end

