-- ==== Sys2Proof/Machine/Step.lean ====
section
/-! DEFINITION. One step of the machine: the next transaction of the host's script (00_scope R14, 20_memory R71;
log 1). -/

namespace Sys2Proof.Machine

/-- The first transaction of the script is made; with none left the block is idle and keeps all its state
(60_exceptions R227, 70_reset R250). -/
def step (s : State) : Host.Outcome State Fault Refusal :=
  match s.script with
  | [] => .next s
  | t :: rest => transact t (s.popped rest)

/-- `s` with the instruction whose bits are `w` as the host's next transaction, the write to CMD that issues
it: the block fetches nothing, a command arrives as such a write (10_state R38, 20_memory R73; log 1). -/
def State.withFetchWord (s : State) (_nbits w : Nat) : State :=
  { s with script := .write (Reg.word .cmd) (BitVec.ofNat 32 w) :: s.script }

end Sys2Proof.Machine
end

