-- ==== Sys2Proof/Safety.lean ====
section
/-! DEFINITION. The invariants of reachable states (10_state R44) and what a run that went wrong is
(70_reset R250). -/

namespace Sys2Proof.Machine

/-- Every listed byte is a location of a buffer (20_memory R60). -/
def Memory.mapped (p : Params) (m : List Host.Cell) : Prop :=
  ∀ c ∈ m, ∃ b : Buf, Buf.base b ≤ c.1 ∧ c.1 < Buf.base b + Buf.size p b

/-- 10_state R44, with the canonical form of the memories and the map of 20_memory R60. -/
structure Inv (p : Params) (s : State) : Prop where
  plen_le : s.plen.toNat ≤ p.paySize
  rlen_le : s.rlen.toNat ≤ p.rxSize
  tlen_range : s.tlen = 0 ∨ (8 ≤ s.tlen.toNat ∧ s.tlen.toNat ≤ p.txSize)
  rdcnt_le : s.rdcnt.toNat ≤ rdMax
  err_used : s.err ≠ 7
  err_strict : s.err = 5 → p.strictCrc = true
  faulted_iff : s.statusWord.getLsbD 0 = true ↔ s.err ≠ 0
  tx_written : ∀ i, i < s.tlen.toNat → (s.written .tx i).isSome = true
  rd_written : s.rdv = true → ∀ k, k < s.rdcnt.toNat → (s.writtenRd k).isSome = true
  mem_wf : Memory.wf s.mem = true
  mem_mapped : Memory.mapped p s.mem
  rd_wf : Sparse.rising s.rd = true
  rd_mapped : ∀ e ∈ s.rd, e.1 < rdMax

/-- The port answered the last transaction with a bus error (20_memory R63). -/
def Answer.isBusError : Answer → Bool
  | .idle => false
  | .writeDone => false
  | .readData _ => false
  | .writeRejected => true
  | .readRejected _ => true

/-- A run of `n` transactions "went wrong": its end state has ERR ≠ 0, or one of its transactions was a bus
error (70_reset R250), or the model stopped. -/
def wentWrong : Nat → State → Bool
  | 0, s => s.faulted
  | n + 1, s =>
    match step s with
    | .next t => t.answer.isBusError || wentWrong n t
    | .fault _ => true
    | .refused _ => true

/-- `n` steps of the machine. -/
abbrev runs (n : Nat) (s : State) : Result := Host.Core.run Sys2Proof.core n s

/-- The word indices of this hardware that hold nothing (20_memory R60, with PAY_SIZE = 1016 and
RX_SIZE = 1024; 10_state R33). -/
def reservedIndex (a : Nat) : Prop :=
  (0x000C ≤ a ∧ a < 0x0400) ∨ (0x07F8 ≤ a ∧ a < 0x0800) ∨ 0x10FE ≤ a

/-- The word indices that take no write: STATUS, ERR, ACC, TLEN, RDCNT, TX and RD (20_memory R63). -/
def readOnlyIndex (a : Nat) : Prop :=
  a = 0x01 ∨ a = 0x02 ∨ a = 0x03 ∨ a = 0x09 ∨ a = 0x0B ∨ (0x0800 ≤ a ∧ a < 0x0C00) ∨ (0x1000 ≤ a ∧ a < 0x10FE)

/-- The `HostWrite`s that 20_memory R63 lists as rejected. -/
def rejectsWrite (a d : Nat) : Prop :=
  reservedIndex a ∨ readOnlyIndex a
    ∨ (a = 0x00 ∧ 2 ^ 16 ≤ d)
    ∨ ((a = 0x04 ∨ a = 0x05) ∧ 2 ^ 8 ≤ d)
    ∨ ((a = 0x06 ∨ a = 0x07) ∧ 2 ^ 16 ≤ d)
    ∨ (a = 0x08 ∧ 1016 < d)
    ∨ (a = 0x0A ∧ 1024 < d)
    ∨ (((0x0400 ≤ a ∧ a < 0x0800) ∨ (0x0C00 ≤ a ∧ a < 0x1000)) ∧ 2 ^ 8 ≤ d)

/-- The transactions that 20_memory R63 lists as rejected. -/
def rejects : Txn → Prop
  | .write a d => rejectsWrite a.toNat d.toNat
  | .read a => reservedIndex a.toNat
  | .reset => False

/-- The answer to a rejected transaction; a rejected `HostRead` returns the data value 0 (20_memory R63). -/
def rejection : Txn → Answer
  | .write _ _ => .writeRejected
  | .read _ => .readRejected 0
  | .reset => .idle

/-- The bytes a transaction feeds to a checksum stream, or none for one that 40_crc R128 does not allow between:
CRCUPD feeds its byte; NOP, register writes, buffer writes and reads feed nothing. -/
def streamed : Txn → Option (List Byte)
  | .write a d =>
    if a ≠ 0 ∨ d = 0 then some []
    else if 0x0200 ≤ d.toNat ∧ d.toNat < 0x0300 then some [d.extractLsb' 0 8]
    else none
  | .read _ => some []
  | .reset => none

end Sys2Proof.Machine
end

