-- ==== Sys2Proof/Certificates/Slice0/Obligations.lean ====
section
/-! DEFINITION. The statements for the provers, from the numbered rules of spec/. -/

open Sys2Proof Sys2Proof.Machine

/-! ### Encoding and decoding -/

/-- Every command survives encoding (30_encoding R93). -/
def Obligations.DecodeOfEncodeIsTheCommand : Prop :=
  ∀ i : Instr, i.wf = true → decode (encode i) = .ok i

/-- A legal word is the word of its command, so no two words mean the same (30_encoding R93). -/
def Obligations.EncodeOfDecodeIsTheWord : Prop :=
  ∀ (w : Command) (i : Instr), decode w = .ok i → encode i = w

/-- "a word w is the command when `w & mask = match`", row by row (30_encoding R93), with the operands of R92. -/
def Obligations.DecodeIsTheOpcodeTable : Prop :=
  ∀ w : Command,
    (decode w = .ok .nop ↔ w &&& 0xFFFF = 0x0000) ∧
    (decode w = .ok .crcinit ↔ w &&& 0xFFFF = 0x0100) ∧
    (∀ b, decode w = .ok (.crcupd b) ↔ w &&& 0xFF00 = 0x0200 ∧ b = w.extractLsb' 0 8) ∧
    (∀ sel, decode w = .ok (.verify sel) ↔
      w &&& 0xFFFE = 0x0300 ∧ sel = (if w.getLsbD 0 then Sel.rx else Sel.tx)) ∧
    (decode w = .ok .build ↔ w &&& 0xFFFF = 0x0400) ∧
    (decode w = .ok .parse ↔ w &&& 0xFFFF = 0x0500) ∧
    (decode w = .ok .clrf ↔ w &&& 0xFFFF = 0x0600)

/-- The three classes of illegal words, and that every other word is legal (30_encoding R94). The names of the
classes are the model's (log 12). -/
def Obligations.IllegalWordsAreTheThreeClasses : Prop :=
  ∀ w : Command,
    (0x07 ≤ w.toNat / 256 → decode w = .error (.reservedOpcode (BitVec.ofNat 8 (w.toNat / 256)))) ∧
    (w.toNat / 256 ∈ [0x00, 0x01, 0x04, 0x05, 0x06] → w.toNat % 256 ≠ 0 →
      decode w = .error (.nonzeroImmediate (BitVec.ofNat 8 (w.toNat / 256)) (BitVec.ofNat 8 (w.toNat % 256)))) ∧
    (w.toNat / 256 = 0x03 → 2 ≤ w.toNat % 256 →
      decode w = .error (.badSelector (BitVec.ofNat 8 (w.toNat % 256)))) ∧
    ((∃ i, decode w = .ok i) ↔
      (w.toNat / 256 ∈ [0x00, 0x01, 0x04, 0x05, 0x06] ∧ w.toNat % 256 = 0) ∨ w.toNat / 256 = 0x02 ∨
      (w.toNat / 256 = 0x03 ∧ w.toNat % 256 < 2))

/-- Words written out from 30_encoding R93 and R99, and one of each illegal class of R94. -/
def Obligations.SampleWordsDecode : Prop :=
  decode 0b0000000000000000#16 = .ok .nop ∧
  decode 0b0000000100000000#16 = .ok .crcinit ∧
  decode 0b0000001001010110#16 = .ok (.crcupd 0x56) ∧
  decode 0b0000001100000000#16 = .ok (.verify .tx) ∧
  decode 0b0000001100000001#16 = .ok (.verify .rx) ∧
  decode 0b0000010000000000#16 = .ok .build ∧
  decode 0b0000010100000000#16 = .ok .parse ∧
  decode 0b0000011000000000#16 = .ok .clrf ∧
  decode 0x0700 = .error (.reservedOpcode 0x07) ∧
  decode 0x0401 = .error (.nonzeroImmediate 0x04 0x01) ∧
  decode 0x0302 = .error (.badSelector 0x02)

/-! ### A step -/

/-- A step whose transaction is an accepted write of a legal word to CMD is exec of the decoded command, at the
state with the transaction taken from the script and answered (10_state R21, 30_encoding R98; log 1, log 2). With
no transaction left the block is idle and keeps all its state (60_exceptions R227; log 1). -/
def Obligations.StepRunsTheDecodedCommand : Prop :=
  (∀ (s : State) (d : Data) (rest : List Txn) (i : Instr),
    s.script = .write 0 d :: rest → d.toNat < 2 ^ 16 → decode (d.setWidth 16) = .ok i → i.wf = true →
    step s = exec i ((s.popped rest).answered .writeDone)) ∧
  (∀ (s : State) (w : Nat) (i : Instr), w < 2 ^ 16 → decode (BitVec.ofNat 16 w) = .ok i → i.wf = true →
    step (s.withFetchWord 16 w) = exec i ((s.popped s.script).answered .writeDone)) ∧
  (∀ s : State, s.script = [] → step s = .next s)

/-- 30_encoding R98, the whole dispatch, on all 65,536 words in every state. -/
def Obligations.CommandDispatchIsTheDecodeTable : Prop :=
  ∀ (s u : State) (d : Data) (rest : List Txn) (w : Command),
    s.script = .write 0 d :: rest → d.toNat < 2 ^ 16 → w = d.setWidth 16 →
    u = (s.popped rest).answered .writeDone →
    step s =
      if s.err ≠ 0 then
        if w = 0x0600 then .next { u with err := 0 } else .next u
      else if w = 0x0000 then exec .nop u
      else if w = 0x0100 then exec .crcinit u
      else if w &&& 0xFF00 = 0x0200 then exec (.crcupd (w.extractLsb' 0 8)) u
      else if w = 0x0300 then exec (.verify .tx) u
      else if w = 0x0301 then exec (.verify .rx) u
      else if w = 0x0400 then exec .build u
      else if w = 0x0500 then exec .parse u
      else if w = 0x0600 then exec .clrf u
      else .next { u with err := 6 }

/-- 60_exceptions R217: a word that matches no row of 30_encoding R93, outside the Failed state, changes ERR to 6
and nothing else. -/
def Obligations.IllegalCommandChangesOnlyErr : Prop :=
  ∀ (s : State) (d : Data) (rest : List Txn) (w : Command),
    s.script = .write 0 d :: rest → d.toNat < 2 ^ 16 → w = d.setWidth 16 → s.err = 0 →
    w &&& 0xFFFF ∉ [0x0000, 0x0100, 0x0400, 0x0500, 0x0600] → w &&& 0xFF00 ≠ 0x0200 → w &&& 0xFFFE ≠ 0x0300 →
    step s = .next { (s.popped rest).answered .writeDone with err := 6 }

/-- 60_exceptions R223: in the Failed state every accepted write to CMD but the word 0x0600 is discarded, and
register and buffer reads and writes work as usual; only a read of ERR or of STATUS shows that ERR differs. -/
def Obligations.FailedStateHoldsOffOnlyCommands : Prop :=
  (∀ (i : Instr) (s : State), s.err ≠ 0 → i ≠ .clrf → exec i s = .next s) ∧
  (∀ (s : State) (d : Data) (rest : List Txn), s.script = .write 0 d :: rest → d.toNat < 2 ^ 16 → s.err ≠ 0 →
    d.toNat ≠ 0x0600 → step s = .next ((s.popped rest).answered .writeDone)) ∧
  (∀ (s : State) (e : BitVec 3) (a : Index) (d : Data) (rest : List Txn),
    s.script = .write a d :: rest → a ≠ 0 →
    ∃ t, step s = .next t ∧ step { s with err := e } = .next { t with err := e } ∧ t.err = s.err) ∧
  (∀ (s : State) (e : BitVec 3) (a : Index) (rest : List Txn),
    s.script = .read a :: rest → a ≠ 1 → a ≠ 2 →
    ∃ t, step s = .next t ∧ step { s with err := e } = .next { t with err := e } ∧ t.err = s.err) ∧
  (∀ (s : State) (rest : List Txn), s.script = .read 1 :: rest →
    step s = .next ((s.popped rest).answered (.readData s.statusWord))) ∧
  (∀ (s : State) (rest : List Txn), s.script = .read 2 :: rest →
    step s = .next ((s.popped rest).answered (.readData (s.err.setWidth 32))))

/-- 60_exceptions R224: the Failed state is left by CLRF, which sets ERR to 0 and restores nothing else, and by
`Reset`, and by nothing else; until then ERR keeps its cause, so faults do not nest. -/
def Obligations.FailedStateIsLeftByClrfOrReset : Prop :=
  (∀ (s : State) (rest : List Txn), s.script = .write 0 0x0600 :: rest →
    step s = .next { (s.popped rest).answered .writeDone with err := 0 }) ∧
  (∀ (s : State) (rest : List Txn), s.script = .reset :: rest → ∃ t, step s = .next t ∧ t.err = 0) ∧
  (∀ (s t : State) (x : Txn) (rest : List Txn), s.script = x :: rest → s.err ≠ 0 → step s = .next t →
    x ≠ .write 0 0x0600 → x ≠ .reset → t.err = s.err)

/-! ### The host port -/

/-- 30_encoding R97: with data above 16 bits a write to CMD is a bus error; no command is issued, no fault
raised. -/
def Obligations.CmdWriteWithUpperHalfIsABusError : Prop :=
  ∀ (s : State) (d : Data) (rest : List Txn), s.script = .write 0 d :: rest → 2 ^ 16 ≤ d.toNat →
    step s = .next ((s.popped rest).answered .writeRejected)

/-- 20_memory R61 and 10_state R46: what every `HostWrite` does. -/
def Obligations.HostWriteEffect : Prop :=
  ∀ (s u : State) (a : Index) (d : Data) (rest : List Txn),
    s.script = .write a d :: rest → u = (s.popped rest).answered .writeDone →
    (rejectsWrite a.toNat d.toNat → step s = .next ((s.popped rest).answered .writeRejected)) ∧
    (¬ rejectsWrite a.toNat d.toNat →
      (a = 0x00 → step s = issue (d.extractLsb' 0 16) u) ∧
      (a = 0x04 → step s = .next { u with unit := d.extractLsb' 0 8 }) ∧
      (a = 0x05 → step s = .next { u with func := d.extractLsb' 0 8 }) ∧
      (a = 0x06 → step s = .next { u with addr := d.extractLsb' 0 16 }) ∧
      (a = 0x07 → step s = .next { u with count := d.extractLsb' 0 16 }) ∧
      (a = 0x08 → step s = .next { u with plen := d.extractLsb' 0 10 }) ∧
      (a = 0x0A → step s = .next { u with rlen := d.extractLsb' 0 11 }) ∧
      (0x0400 ≤ a.toNat → ∃ t, step s = .next t ∧ t = { u with mem := t.mem } ∧
        Sparse.get t.mem a.toNat = some (d.extractLsb' 0 8) ∧
        ∀ k, k ≠ a.toNat → Sparse.get t.mem k = Sparse.get s.mem k))

/-- What every `HostRead` returns, and that it changes nothing of the block (20_memory R62, 10_state R37). A location or
entry never written gives some value (R75); that bits 31 to 17 of a never-written entry's first word read as 0 is the
model's own inference (log 5). -/
def Obligations.HostReadReturns : Prop :=
  ∀ (s : State) (a : Index) (rest : List Txn), s.script = .read a :: rest →
    ∃ ans, step s = .next ((s.popped rest).answered ans) ∧
      (reservedIndex a.toNat → ans = .readRejected 0) ∧
      (a = 0x00 → ans = .readData 0) ∧
      (a = 0x01 → ans = .readData s.statusWord) ∧
      (a = 0x02 → ans = .readData (s.err.setWidth 32)) ∧
      (a = 0x03 → ans = .readData (s.acc.setWidth 32)) ∧
      (a = 0x04 → ans = .readData (s.unit.setWidth 32)) ∧
      (a = 0x05 → ans = .readData (s.func.setWidth 32)) ∧
      (a = 0x06 → ans = .readData (s.addr.setWidth 32)) ∧
      (a = 0x07 → ans = .readData (s.count.setWidth 32)) ∧
      (a = 0x08 → ans = .readData (s.plen.setWidth 32)) ∧
      (a = 0x09 → ans = .readData (s.tlen.setWidth 32)) ∧
      (a = 0x0A → ans = .readData (s.rlen.setWidth 32)) ∧
      (a = 0x0B → ans = .readData (s.rdcnt.setWidth 32)) ∧
      (0x0400 ≤ a.toNat → a.toNat < 0x1000 → ¬ reservedIndex a.toNat →
        ∃ v : Byte, ans = .readData (v.setWidth 32) ∧ ∀ w, Sparse.get s.mem a.toNat = some w → v = w) ∧
      (0x1000 ≤ a.toNat → a.toNat < 0x10FE →
        ∃ r : Reading, (∀ q, s.writtenRd ((a.toNat - 0x1000) / 2) = some q → r = q) ∧
          ∃ v, ans = .readData v ∧
            v.toNat = if a.toNat % 2 = 0 then r.address.toNat else 65536 * r.signed.toNat + r.raw.toNat)

/-- 20_memory R63: a rejected transaction changes nothing of the block and is answered as such, a read with the data
value 0; the rejected transactions are exactly the listed ones. -/
def Obligations.BusErrorsAreExactlyTheListed : Prop :=
  ∀ (s : State) (x : Txn) (rest : List Txn), s.script = x :: rest →
    (rejects x → step s = .next ((s.popped rest).answered (rejection x)) ∧ (rejection x).isBusError = true) ∧
    (¬ rejects x → ∀ t, step s = .next t → t.answer.isBusError = false)

/-- 20_memory R71 and R68: what the host writes to PAY or RX is what its next read of the location returns. -/
def Obligations.WrittenByteReadsBack : Prop :=
  ∀ (s : State) (a : Index) (d : Data) (rest : List Txn),
    s.script = .write a d :: .read a :: rest →
    ((0x0400 ≤ a.toNat ∧ a.toNat < 0x07F8) ∨ (0x0C00 ≤ a.toNat ∧ a.toNat < 0x1000)) → d.toNat < 2 ^ 8 →
    ∃ t, runs 2 s = .next t ∧ t.answer = .readData d

/-- 10_state R22 and R39: the bits of STATUS. -/
def Obligations.StatusBitsAreTheFlags : Prop :=
  ∀ (s : State) (j : Nat), s.statusWord.getLsbD j =
    if j = 0 then decide (s.err ≠ 0) else if j = 1 then s.crcOk else if j = 2 then s.rdv else false

/-! ### Reset -/

/-- 10_state R45: the state after `Reset`. -/
def Obligations.ResetValues : Prop :=
  State.reset.acc = 0xFFFF ∧ State.reset.unit = 0 ∧ State.reset.func = 0 ∧ State.reset.addr = 0 ∧
  State.reset.count = 0 ∧ State.reset.plen = 0 ∧ State.reset.tlen = 0 ∧ State.reset.rlen = 0 ∧
  State.reset.rdcnt = 0 ∧ State.reset.err = 0 ∧ State.reset.crcOk = false ∧ State.reset.rdv = false ∧
  State.reset.statusWord = 0 ∧ State.reset.regRead .cmd = 0 ∧
  (∀ b i, State.reset.written b i = none) ∧ (∀ k, State.reset.writtenRd k = none)

/-- 70_reset R240: `Reset` maps every state, the Failed ones among them, to one where the registers have their
reset values and every memory location is never written. -/
def Obligations.ResetWorksInEveryState : Prop :=
  ∀ (s : State) (rest : List Txn), s.script = .reset :: rest →
    ∃ t, step s = .next t ∧ t.script = rest ∧
      t.acc = 0xFFFF ∧ t.unit = 0 ∧ t.func = 0 ∧ t.addr = 0 ∧ t.count = 0 ∧ t.plen = 0 ∧ t.tlen = 0 ∧ t.rlen = 0 ∧
      t.rdcnt = 0 ∧ t.err = 0 ∧ t.crcOk = false ∧ t.rdv = false ∧
      (∀ b i, t.written b i = none) ∧ (∀ k, t.writtenRd k = none)

/-! ### The checksum -/

/-- 40_crc R120, with its examples. -/
def Obligations.CrcBitStep : Prop :=
  (∀ a : Half, crcBit a =
    if a.toNat % 2 = 1 then BitVec.ofNat 16 (a.toNat / 2) ^^^ 0xA001#16 else BitVec.ofNat 16 (a.toNat / 2)) ∧
  crcBit 0x0000 = 0x0000 ∧ crcBit 0x0001 = 0xA001 ∧ crcBit 0x0002 = 0x0001 ∧ crcBit 0x8000 = 0x4000 ∧
  crcBit 0xFFFF = 0xDFFE ∧ crcBit 0xA001 = 0xF001

/-- 40_crc R121: the byte enters the low eight bits, then exactly eight bit steps; with its examples, the first one
step by step. -/
def Obligations.CrcByteStep : Prop :=
  (∀ (a : Half) (b : Byte), crcByte a b = crcBit^[8] (joinBytes (highByte a) (lowByte a ^^^ b))) ∧
  List.iterate crcBit 0xFFFE 9 =
    [0xFFFE, 0x7FFF, 0x9FFE, 0x4FFF, 0x87FE, 0x43FF, 0x81FE, 0x40FF, 0x807E] ∧
  crcByte 0xFFFF 0x01 = 0x807E ∧ crcByte 0xFFFF 0x00 = 0x40BF ∧ crcByte 0xFFFF 0xFF = 0x00FF ∧
  crcByte 0x0000 0x00 = 0x0000 ∧ crcByte 0x0000 0x01 = 0xC0C1 ∧ crcByte 0x0000 0x80 = 0xA001 ∧
  crcByte 0x0000 0xFF = 0x4040 ∧ crcByte 0x1234 0x56 = 0xE993

/-- 40_crc R122 and R123: the fold, from 0xFFFF, one byte after another. -/
def Obligations.ChecksumIsTheFold : Prop :=
  checksum [] = 0xFFFF ∧ ∀ (s : List Byte) (b : Byte), checksum (s ++ [b]) = crcByte (checksum s) b

/-- 40_crc R124: a table of 256 entries gives the same byte step. -/
def Obligations.TableDrivenByteStepAgrees : Prop :=
  ∀ (a : Half) (b : Byte), crcByte a b = (a >>> 8) ^^^ crcByte 0 (lowByte a ^^^ b)

/-- The residue (40_crc R132, an inference the spec marks as its own). -/
def Obligations.ChecksumResidueIsZero : Prop :=
  ∀ s : List Byte, checksum (s ++ le16 (checksum s)) = 0x0000

/-- 40_crc R130: the frame check on a sequence with its last two bytes named, and on one too short. -/
def Obligations.FrameCheckComparesTheLastTwoBytes : Prop :=
  (∀ f : List Byte, f.length < 2 → frameOk f = false) ∧
  (∀ (body : List Byte) (lo hi : Byte),
    frameOk (body ++ [lo, hi]) = true ↔ (checksum body).toNat = 256 * hi.toNat + lo.toNat)

/-- The streaming law (40_crc R128, an inference the spec marks as its own): after CRCINIT, or straight after `Reset`, ACC is the checksum of the bytes fed
by CRCUPD, whatever NOPs, reads and register or buffer writes come between. CLRF and rejected writes to CMD between the bytes are
left out. -/
def Obligations.StreamingLaw : Prop :=
  (∀ (s : State) (xs rest : List Txn), s.err = 0 → s.script = .write 0 0x0100 :: (xs ++ rest) →
    (∀ x ∈ xs, (streamed x).isSome = true) →
    ∃ t, runs (xs.length + 1) s = .next t ∧ t.acc = checksum (xs.flatMap fun x => (streamed x).getD []) ∧
      t.script = rest) ∧
  (∀ (s : State) (xs rest : List Txn), s.script = .reset :: (xs ++ rest) →
    (∀ x ∈ xs, (streamed x).isSome = true) →
    ∃ t, runs (xs.length + 1) s = .next t ∧ t.acc = checksum (xs.flatMap fun x => (streamed x).getD []) ∧
      t.script = rest)

/-! ### NOP, CLRF, CRCINIT, CRCUPD, VERIFY -/

/-- 43_control R200: NOP changes nothing in any state, and no word 0x0001 to 0x00FF is NOP. -/
def Obligations.NopChangesNothing : Prop :=
  (∀ s : State, exec .nop s = .next s) ∧
  decode 0x0000 = .ok .nop ∧ ∀ imm : Byte, imm ≠ 0 → ∀ i, decode (BitVec.ofNat 16 (0x0000 + imm.toNat)) ≠ .ok i

/-- 43_control R201: CLRF clears ERR in every state and changes nothing else; 0x0601 to 0x06FF are discarded in the
Failed state and raise IllegalCommand outside it. -/
def Obligations.ClrfClearsOnlyErr : Prop :=
  (∀ s : State, exec .clrf s = .next { s with err := 0 }) ∧
  decode 0x0600 = .ok .clrf ∧
  (∀ (s : State) (imm : Byte), imm ≠ 0 →
    issue (BitVec.ofNat 16 (0x0600 + imm.toNat)) s = if s.err = 0 then .next { s with err := 6 } else .next s)

/-- 40_crc R126: CRCINIT sets ACC to 0xFFFF and changes nothing else; in the Failed state it is discarded. -/
def Obligations.CrcinitSetsAcc : Prop :=
  (∀ s : State, s.err = 0 → exec .crcinit s = .next { s with acc := 0xFFFF }) ∧
  (∀ s : State, s.err ≠ 0 → exec .crcinit s = .next s) ∧
  decode 0x0100 = .ok .crcinit ∧ ∀ imm : Byte, imm ≠ 0 → ∀ i, decode (BitVec.ofNat 16 (0x0100 + imm.toNat)) ≠ .ok i

/-- 40_crc R127: CRCUPD makes one byte step on ACC and changes nothing else; in the Failed state it is discarded. -/
def Obligations.CrcupdStepsAcc : Prop :=
  (∀ (s : State) (b : Byte), s.err = 0 → exec (.crcupd b) s = .next { s with acc := crcByte s.acc b }) ∧
  (∀ (s : State) (b : Byte), s.err ≠ 0 → exec (.crcupd b) s = .next s) ∧
  (∀ b : Byte, decode (0x0200 + b.setWidth 16) = .ok (.crcupd b))

/-- 40_crc R131: VERIFY completes for both buffers and every length a buffer can hold, writes CRC_OK and, for two
bytes or more, ACC, and nothing else. The lengths a buffer can hold are all that occur (10_state R44). -/
def Obligations.VerifyComparesTheFrame : Prop :=
  (∀ (s : State) (sel : Sel) (b : Buf) (n : Nat),
    s.err = 0 → (b, n) = (match sel with | .tx => (Buf.tx, s.tlen.toNat) | .rx => (Buf.rx, s.rlen.toNat)) →
    n ≤ 1024 →
    (n < 2 → exec (.verify sel) s = .next { s with crcOk := false }) ∧
    (2 ≤ n → ∃ c, c = checksum (s.slice .frame b 0 (n - 2)) ∧
      exec (.verify sel) s = .next { s with
        acc := c
        crcOk := decide (c.extractLsb' 0 8 = s.memRead .frame b (n - 2)
          ∧ c.extractLsb' 8 8 = s.memRead .frame b (n - 1)) }) ∧
    ∃ t, exec (.verify sel) s = .next t ∧ t.crcOk = frameOk (s.slice .frame b 0 n)) ∧
  (∀ (s : State) (sel : Sel), s.err ≠ 0 → exec (.verify sel) s = .next s) ∧
  (∀ imm : Byte, 2 ≤ imm.toNat → ∀ i, decode (BitVec.ofNat 16 (0x0300 + imm.toNat)) ≠ .ok i)

/-! ### BUILD -/

/-- 41_frame_builder R151: with COUNT not 0, TX takes the frame `build_request` gives, TLEN its length, ACC its
checksum, and everything else, every other byte of memory among it, is unchanged (PLEN within PAY_SIZE is all that
occurs, 10_state R44); with COUNT = 0 the fault InvalidArgument, which sets TLEN to 0; in the Failed state nothing;
no word 0x0401 to 0x04FF is BUILD. -/
def Obligations.BuildAssemblesTheFrame : Prop :=
  (∀ s : State, s.err = 0 → s.count ≠ 0 → s.plen.toNat ≤ 1016 →
    ∃ (t : State) (frame : List Byte),
      buildRequest s.unit s.func s.addr s.count (s.slice .payload .pay 0 s.plen.toNat) = .ok frame ∧
      frame.length = 8 + s.plen.toNat ∧
      exec .build s = .next t ∧
      t = { s with mem := t.mem, tlen := BitVec.ofNat 11 frame.length, acc := checksum (frame.take (6 + s.plen.toNat)) } ∧
      (∀ i, i < frame.length → Sparse.get t.mem (0x0800 + i) = frame[i]?) ∧
      (∀ a, a < 0x0800 ∨ 0x0800 + frame.length ≤ a → Sparse.get t.mem a = Sparse.get s.mem a)) ∧
  (∀ s : State, s.err = 0 → s.count = 0 → exec .build s = .next { s with tlen := 0, err := 1 }) ∧
  (∀ s : State, s.err ≠ 0 → exec .build s = .next s) ∧
  decode 0x0400 = .ok .build ∧ ∀ imm : Byte, imm ≠ 0 → ∀ i, decode (BitVec.ofNat 16 (0x0400 + imm.toNat)) ≠ .ok i

/-- 60_exceptions R212: InvalidArgument is raised by BUILD when COUNT = 0 and by nothing else; TLEN becomes 0 and
TX and ACC are unchanged. -/
def Obligations.BuildWithCountZeroIsInvalidArgument : Prop :=
  (∀ s : State, s.err = 0 → s.count = 0 → exec .build s = .next { s with tlen := 0, err := 1 }) ∧
  (∀ (i : Instr) (s t : State), s.err = 0 → exec i s = .next t → t.err = 1 → i = .build ∧ s.count = 0)

/-- Length and checksum of every built frame (41_frame_builder R152, an inference the spec marks as its own). -/
def Obligations.BuiltFrameLengthAndChecksum : Prop :=
  ∀ (u f : Byte) (a c : Half) (p : List Byte), c ≠ 0 →
    ∃ frame, buildRequest u f a c p = .ok frame ∧ frame.length = 8 + p.length ∧
      frame.drop (6 + p.length) = le16 (checksum (frame.take (6 + p.length))) ∧ frameOk frame = true

/-- 30_encoding R102: the request frame, field by field. -/
def Obligations.RequestFrameLayout : Prop :=
  ∀ (u f : Byte) (a c : Half) (p frame : List Byte), buildRequest u f a c p = .ok frame →
    frame.length = 8 + p.length ∧
    frame[0]? = some u ∧ frame[1]? = some f ∧
    frame[2]? = some (a.extractLsb' 8 8) ∧ frame[3]? = some (a.extractLsb' 0 8) ∧
    frame[4]? = some (c.extractLsb' 8 8) ∧ frame[5]? = some (c.extractLsb' 0 8) ∧
    (∀ i, i < p.length → frame[6 + i]? = p[i]?) ∧
    ∃ k, k = checksum (frame.take (6 + p.length)) ∧
      frame[6 + p.length]? = some (k.extractLsb' 0 8) ∧ frame[7 + p.length]? = some (k.extractLsb' 8 8)

/-- 41_frame_builder R150 and R155: the one failure is a count of 0. -/
def Obligations.BuildRequestFailsOnlyOnCountZero : Prop :=
  ∀ (u f : Byte) (a c : Half) (p : List Byte),
    (c = 0 → buildRequest u f a c p = .error .invalidArgument) ∧
    (c ≠ 0 → buildRequest u f a c p =
      .ok ([u, f, a.extractLsb' 8 8, a.extractLsb' 0 8, c.extractLsb' 8 8, c.extractLsb' 0 8] ++ p ++
        le16 (checksum ([u, f, a.extractLsb' 8 8, a.extractLsb' 0 8, c.extractLsb' 8 8, c.extractLsb' 0 8] ++ p))))

/-- 40_crc R131: "`VERIFY TX` straight after a successful BUILD always gives CRC_OK = 1", and leaves all else. -/
def Obligations.VerifyAfterBuildSucceeds : Prop :=
  ∀ s : State, s.err = 0 → s.count ≠ 0 → s.plen.toNat ≤ 1016 →
    ∃ t, exec .build s = .next t ∧ exec (.verify .tx) t = .next { t with crcOk := true }

/-! ### PARSE -/

/-- 60_exceptions R213: check 1. -/
def Obligations.ParseShortHeaderIsTruncated : Prop :=
  ∀ s : State, s.err = 0 → s.rlen.toNat < 5 →
    exec .parse s = .next { s with rdcnt := 0, rdv := false, crcOk := false, err := 2 }

/-- 60_exceptions R214: check 2. RLEN within RX_SIZE is all that occurs (10_state R44). -/
def Obligations.ParseShortDataIsTruncated : Prop :=
  ∀ s : State, s.err = 0 → 5 ≤ s.rlen.toNat → s.rlen.toNat ≤ 1024 → s.rlen.toNat < 3 + s.byteCount + 2 →
    exec .parse s = .next { s with rdcnt := 0, rdv := false, crcOk := false, err := 3 }

/-- 60_exceptions R215: check 3 exists with STRICT_CRC alone; with it false, as here, code 5 is never raised. -/
def Obligations.ParseCrcMismatchOnlyWhenStrict : Prop :=
  (∀ (p : Params) (s : State) (n : Nat) (c : Half), p.strictCrc = true → s.err = 0 → s.rlen.toNat ≤ p.rxSize →
    n = s.byteCount → 5 ≤ s.rlen.toNat → 3 + n + 2 ≤ s.rlen.toNat → c = checksum (s.slice .checksum .rx 0 (3 + n)) →
    ¬ (c.extractLsb' 0 8 = s.memRead .checksum .rx (3 + n) ∧ c.extractLsb' 8 8 = s.memRead .checksum .rx (4 + n)) →
    s.unlessFailed (parseCmd p s) =
      .next { s with acc := c, crcOk := false, rdcnt := 0, rdv := false, err := 5 }) ∧
  (∀ (i : Instr) (s t : State), s.err = 0 → exec i s = .next t → t.err ≠ 5)

/-- 60_exceptions R216: check 4, with the checksum computed and compared before it, for every value of the
parameters. -/
def Obligations.ParseOddByteCountIsRefused : Prop :=
  ∀ (p : Params) (s : State) (n : Nat) (c : Half) (ok : Bool), s.err = 0 → s.rlen.toNat ≤ p.rxSize →
    n = s.byteCount → 5 ≤ s.rlen.toNat → 3 + n + 2 ≤ s.rlen.toNat → c = checksum (s.slice .checksum .rx 0 (3 + n)) →
    ok = decide (c.extractLsb' 0 8 = s.memRead .checksum .rx (3 + n)
      ∧ c.extractLsb' 8 8 = s.memRead .checksum .rx (4 + n)) →
    (p.strictCrc = true → ok = true) → n % 2 = 1 →
    s.unlessFailed (parseCmd p s) = .next { s with acc := c, crcOk := ok, rdcnt := 0, rdv := false, err := 4 } ∧
    (p = Config.params → exec .parse s = .next { s with acc := c, crcOk := ok, rdcnt := 0, rdv := false, err := 4 })

/-- 42_response_parser R183, success on this hardware: the checksum in ACC, the comparison in CRC_OK, n / 2
readings in RD with raw big-endian (R175), address without wrap (R176) and the quirk's signed value (R177), and
nothing else; entries at and above the new RDCNT keep their contents. -/
def Obligations.ParseDecodesTheReadings : Prop :=
  ∀ (s : State) (n : Nat) (c : Half), s.err = 0 → s.rlen.toNat ≤ 1024 → n = s.byteCount → 5 ≤ s.rlen.toNat →
    3 + n + 2 ≤ s.rlen.toNat → n % 2 = 0 → c = checksum (s.slice .checksum .rx 0 (3 + n)) →
    ∃ t, exec .parse s = .next t ∧
      t = { s with
        acc := c
        crcOk := decide (c.extractLsb' 0 8 = s.memRead .checksum .rx (3 + n)
          ∧ c.extractLsb' 8 8 = s.memRead .checksum .rx (4 + n))
        rd := t.rd
        rdcnt := BitVec.ofNat 7 (n / 2)
        rdv := true } ∧
      t.rdcnt.toNat = n / 2 ∧
      (∀ k, k < n / 2 → ∃ r, t.writtenRd k = some r ∧
        r.address.toNat = s.addr.toNat + k ∧
        r.raw.toNat = 256 * (s.memRead .data .rx (3 + 2 * k)).toNat + (s.memRead .data .rx (4 + 2 * k)).toNat ∧
        r.signed.toInt = if 32768 ≤ r.raw.toNat then (r.raw.toNat : Int) - 65535 else r.raw.toNat) ∧
      (∀ k, n / 2 ≤ k → t.writtenRd k = s.writtenRd k)

/-- 42_response_parser R170 and R183: over a response that has been written, PARSE is `parse_response`, for every
value of the parameters: the same readings in order, or the same fault with RD unchanged. -/
def Obligations.ParseRefinesParseResponse : Prop :=
  ∀ (p : Params) (s : State) (raw : List Byte), s.err = 0 → s.rlen.toNat ≤ p.rxSize → raw.length = s.rlen.toNat →
    (∀ i, i < raw.length → s.written .rx i = raw[i]?) →
    ∃ t, s.unlessFailed (parseCmd p s) = .next t ∧
      match parseResponse p raw s.addr with
      | .ok rs => t.err = 0 ∧ t.rdv = true ∧ t.rdcnt.toNat = rs.length ∧
          ∀ k, k < rs.length → t.writtenRd k = rs[k]?
      | .error c => t.err = c.code ∧ t.rdv = false ∧ t.rdcnt = 0 ∧ t.rd = s.rd

/-- 42_response_parser R171 to R174: the checks in order, "first failure wins", with their cause codes. -/
def Obligations.ParseChecksInOrder : Prop :=
  (Cause.code .truncatedHeader = 2 ∧ Cause.code .truncatedDeclared = 3 ∧ Cause.code .crcMismatch = 5 ∧
    Cause.code .oddByteCount = 4) ∧
  ∀ (p : Params) (raw : List Byte) (start : Half) (n : Nat), n = (raw.getD 2 0).toNat →
    (raw.length < 5 → parseResponse p raw start = .error .truncatedHeader) ∧
    (5 ≤ raw.length → raw.length < 3 + n + 2 → parseResponse p raw start = .error .truncatedDeclared) ∧
    (5 ≤ raw.length → 3 + n + 2 ≤ raw.length → p.strictCrc = true →
      (checksum (raw.take (3 + n))).toNat ≠ 256 * (raw.getD (4 + n) 0).toNat + (raw.getD (3 + n) 0).toNat →
      parseResponse p raw start = .error .crcMismatch) ∧
    (5 ≤ raw.length → 3 + n + 2 ≤ raw.length →
      (p.strictCrc = true → (checksum (raw.take (3 + n))).toNat = 256 * (raw.getD (4 + n) 0).toNat + (raw.getD (3 + n) 0).toNat) →
      n % 2 = 1 → parseResponse p raw start = .error .oddByteCount) ∧
    (5 ≤ raw.length → 3 + n + 2 ≤ raw.length →
      (p.strictCrc = true → (checksum (raw.take (3 + n))).toNat = 256 * (raw.getD (4 + n) 0).toNat + (raw.getD (3 + n) 0).toNat) →
      n % 2 = 0 → ∃ rs, parseResponse p raw start = .ok rs ∧ rs.length = n / 2)

/-- Bytes beyond the declared end are ignored (42_response_parser R182, an inference the spec marks as its own). -/
def Obligations.BytesBeyondTheDeclaredEndAreIgnored : Prop :=
  ∀ (p : Params) (raw extra : List Byte) (start : Half), 5 ≤ raw.length →
    raw.length = 3 + (raw.getD 2 0).toNat + 2 →
    parseResponse p (raw ++ extra) start = parseResponse p raw start

/-- A byte count of zero is a success with no readings (42_response_parser R186, an inference the spec marks as its
own). -/
def Obligations.ByteCountZeroIsAccepted : Prop :=
  ∀ (p : Params) (raw : List Byte) (start : Half), 5 ≤ raw.length → raw.getD 2 0 = 0 →
    (p.strictCrc = true → (checksum (raw.take 3)).toNat = 256 * (raw.getD 4 0).toNat + (raw.getD 3 0).toNat) →
    parseResponse p raw start = .ok []

/-- Without a strict check the unit id and function code have no effect on the result (42_response_parser R181, an
inference the spec marks as its own). -/
def Obligations.ParserIgnoresUnitAndFunction : Prop :=
  ∀ (p : Params) (u u' f f' : Byte) (rest : List Byte) (start : Half), p.strictCrc = false →
    parseResponse p (u :: f :: rest) start = parseResponse p (u' :: f' :: rest) start

/-- 42_response_parser R177, in both modes; the stored pattern read as two's complement is the same integer, and with
the quirk −32768 is never produced and 0 twice (R178, an inference the spec marks as its own). -/
def Obligations.SignedPatternIsTheQuirk : Prop :=
  ∀ raw : Half,
    (signed16 false raw).toInt = (if 32768 ≤ raw.toNat then (raw.toNat : Int) - 65535 else raw.toNat) ∧
    (signed16 true raw).toInt = (if 32768 ≤ raw.toNat then (raw.toNat : Int) - 65536 else raw.toNat) ∧
    signedValue false raw = (signed16 false raw).toInt ∧ signedValue true raw = (signed16 true raw).toInt ∧
    -32767 ≤ signedValue false raw ∧ signedValue false raw ≤ 32767 ∧
    (signedValue false raw = 0 ↔ raw = 0x0000 ∨ raw = 0xFFFF)

/-- 42_response_parser R179: four digits, most significant first, in either letter case. -/
def Obligations.HexRenderingDigits : Prop :=
  ∀ v : Half,
    (hex4 false v).map some = [v.extractLsb' 12 4, v.extractLsb' 8 4, v.extractLsb' 4 4, v.extractLsb' 0 4].map
      (fun d => ['0', '1', '2', '3', '4', '5', '6', '7', '8', '9', 'a', 'b', 'c', 'd', 'e', 'f'][d.toNat]?) ∧
    (hex4 true v).map some = [v.extractLsb' 12 4, v.extractLsb' 8 4, v.extractLsb' 4 4, v.extractLsb' 0 4].map
      (fun d => ['0', '1', '2', '3', '4', '5', '6', '7', '8', '9', 'A', 'B', 'C', 'D', 'E', 'F'][d.toNat]?)

/-! ### Rules over all commands and all transactions -/

/-- No command writes RX or RLEN (42_response_parser R185); no command writes PAY or an operand register, only BUILD
writes TX and TLEN, only PARSE writes RD, RDCNT and RDV (20_memory R74 for the memories, an inference the spec marks as
its own, and the table of 10_state R20 for the registers); no command touches the model's own fields (log 1, log 2,
log 4). -/
def Obligations.CommandsWriteOnlyTheirOwnState : Prop :=
  ∀ (i : Instr) (s t : State), exec i s = .next t →
    t.rlen = s.rlen ∧ t.unit = s.unit ∧ t.func = s.func ∧ t.addr = s.addr ∧ t.count = s.count ∧ t.plen = s.plen ∧
    (∀ a, a < 0x0800 ∨ 0x0C00 ≤ a → Sparse.get t.mem a = Sparse.get s.mem a) ∧
    (i ≠ .build → t.mem = s.mem ∧ t.tlen = s.tlen) ∧
    (i ≠ .parse → t.rd = s.rd ∧ t.rdcnt = s.rdcnt ∧ t.rdv = s.rdv) ∧
    t.script = s.script ∧ t.answer = s.answer ∧ t.freeCtr = s.freeCtr

/-- 10_state R41: RDV is 1 after a PARSE that succeeds and 0 after one that faults; no other command writes it and
none reads it; it resets to 0. -/
def Obligations.RdvSaysParseSucceeded : Prop :=
  (∀ s t : State, s.err = 0 → exec .parse s = .next t → (t.rdv = true ↔ t.err = 0)) ∧
  (∀ (i : Instr) (s t : State), i ≠ .parse → exec i s = .next t → t.rdv = s.rdv) ∧
  (∀ (i : Instr) (s t : State) (b : Bool), exec i s = .next t →
    ∃ u, exec i { s with rdv := b } = .next u ∧ { u with rdv := t.rdv } = t) ∧
  State.reset.rdv = false

/-- 10_state R40: BUILD, CRCINIT, CRCUPD, NOP and CLRF leave CRC_OK unchanged; no command reads it. -/
def Obligations.CrcOkWritersAndReaders : Prop :=
  (∀ (i : Instr) (s t : State), i ≠ .parse → (∀ sel, i ≠ .verify sel) → exec i s = .next t → t.crcOk = s.crcOk) ∧
  (∀ (i : Instr) (s t : State) (b : Bool), exec i s = .next t →
    ∃ u, exec i { s with crcOk := b } = .next u ∧ { u with crcOk := t.crcOk } = t)

/-- 10_state R24: the only transactions that change ACC are `Reset` and the writes to CMD of CRCINIT, CRCUPD, VERIFY,
BUILD and PARSE. -/
def Obligations.AccChangesOnlyByItsCommands : Prop :=
  ∀ (s t : State) (x : Txn) (rest : List Txn), s.script = x :: rest → step s = .next t → t.acc ≠ s.acc →
    x = .reset ∨ ∃ (d : Data) (i : Instr), x = .write 0 d ∧ d.toNat < 2 ^ 16 ∧ decode (d.setWidth 16) = .ok i ∧
      i ≠ .nop ∧ i ≠ .clrf

/-- 20_memory R69, an inference the spec marks as its own: BUILD, PARSE and VERIFY, issued again after a run without
a fault, leave the state as it was,
whatever number the free values then have. It is stated over buffers the host has loaded (20_memory R75) and over
states that meet 10_state R44. -/
def Obligations.RepeatedCommandsAreIdempotent : Prop :=
  ∀ (i : Instr) (s t : State) (c : Nat), Inv Config.params s →
    (∀ j, j < s.plen.toNat → (s.written .pay j).isSome = true) →
    (∀ j, j < s.rlen.toNat → (s.written .rx j).isSome = true) →
    (i = .build ∨ i = .parse ∨ ∃ sel, i = .verify sel) →
    exec i s = .next t → t.err = 0 → exec i { t with freeCtr := c } = .next { t with freeCtr := c }

/-- The model's own stop: a command answers a next state, or faults because a length register reaches past its
buffer, which no run from reset brings about (10_state R44; log 8). -/
def Obligations.CommandsStopOnlyPastABuffer : Prop :=
  ∀ (i : Instr) (s : State),
    (∃ t, exec i s = .next t) ∨
    (s.err = 0 ∧ ∃ b n, exec i s = .fault (.noSuchLocation b n) ∧ Buf.size Config.params b < n ∧
      n = (match b with | .pay => s.plen.toNat | .tx => s.tlen.toNat | .rx => s.rlen.toNat))

/-! ### Invariants -/

/-- The state after `Reset` meets the invariants of 10_state R44, with any script of the host. -/
def Obligations.ResetMeetsTheInvariants : Prop :=
  ∀ xs : List Txn, Inv Config.params { State.reset with script := xs }

/-- Every step keeps the invariants of 10_state R44, an inference the spec marks as its own. -/
def Obligations.EveryStepKeepsTheInvariants : Prop :=
  ∀ s t : State, Inv Config.params s → step s = .next t → Inv Config.params t

/-- 70_reset R247: from a state that meets 10_state R44 every transaction completes. -/
def Obligations.EveryTransactionCompletes : Prop :=
  ∀ s : State, Inv Config.params s → ∃ t, step s = .next t

/-- Two memories in canonical form that read alike everywhere are the same data (log 11). -/
def Obligations.CanonicalMemoriesAreEqual : Prop :=
  ∀ m m' : List Host.Cell, Memory.wf m = true → Memory.wf m' = true →
    (∀ a, Sparse.get m a = Sparse.get m' a) → m = m'

/-! ### The host script -/

/-- 30_encoding R99: the transaction of every statement. -/
def Obligations.ScriptStatementsEncode : Prop :=
  (∀ v, Stmt.txn (.wr .cmd v) = .write 0x0000 v ∧ Stmt.txn (.wr .status v) = .write 0x0001 v ∧
    Stmt.txn (.wr .err v) = .write 0x0002 v ∧ Stmt.txn (.wr .acc v) = .write 0x0003 v ∧
    Stmt.txn (.wr .unit v) = .write 0x0004 v ∧ Stmt.txn (.wr .func v) = .write 0x0005 v ∧
    Stmt.txn (.wr .addr v) = .write 0x0006 v ∧ Stmt.txn (.wr .count v) = .write 0x0007 v ∧
    Stmt.txn (.wr .plen v) = .write 0x0008 v ∧ Stmt.txn (.wr .tlen v) = .write 0x0009 v ∧
    Stmt.txn (.wr .rlen v) = .write 0x000A v ∧ Stmt.txn (.wr .rdcnt v) = .write 0x000B v) ∧
  (∀ r v a, Stmt.txn (.wr r v) = .write a v → Stmt.txn (.rd r) = .read a) ∧
  (∀ i v, Stmt.txn (.wrAt .pay i v) = .write (BitVec.ofNat 13 (0x0400 + i)) v ∧
    Stmt.txn (.wrAt .tx i v) = .write (BitVec.ofNat 13 (0x0800 + i)) v ∧
    Stmt.txn (.wrAt .rx i v) = .write (BitVec.ofNat 13 (0x0C00 + i)) v ∧
    Stmt.txn (.wrAt .rd i v) = .write (BitVec.ofNat 13 (0x1000 + i)) v) ∧
  (∀ m i v a, Stmt.txn (.wrAt m i v) = .write a v → Stmt.txn (.rdAt m i) = .read a) ∧
  (∀ k, Stmt.txn (.rdA k) = .read (BitVec.ofNat 13 (0x1000 + 2 * k)) ∧
    Stmt.txn (.rdV k) = .read (BitVec.ofNat 13 (0x1000 + 2 * k + 1))) ∧
  Stmt.txn .reset = .reset ∧
  Stmt.txn (.cmd .nop) = .write 0 0x00000000 ∧ Stmt.txn (.cmd .crcinit) = .write 0 0x00000100 ∧
  (∀ b, Stmt.txn (.cmd (.crcupd b)) = .write 0 (0x00000200 + b.setWidth 32)) ∧
  Stmt.txn (.cmd (.verify .tx)) = .write 0 0x00000300 ∧ Stmt.txn (.cmd (.verify .rx)) = .write 0 0x00000301 ∧
  Stmt.txn (.cmd .build) = .write 0 0x00000400 ∧ Stmt.txn (.cmd .parse) = .write 0 0x00000500 ∧
  Stmt.txn (.cmd .clrf) = .write 0 0x00000600

/-- 30_encoding R100: LDPAY, LDRX and SETREQ load what they name, in any state, and change nothing else. -/
def Obligations.LoadPseudoInstructionsLoad : Prop :=
  (∀ (s : State) (bs : List Byte) (rest : List Txn), (Pseudo.ldpay bs).wf Config.params = true →
    s.script = Pseudo.txns (.ldpay bs) ++ rest →
    ∃ t, runs (bs.length + 1) s = .next t ∧
      t = { s with mem := t.mem, plen := t.plen, script := rest, answer := .writeDone, freeCtr := t.freeCtr } ∧
      t.plen.toNat = bs.length ∧ (∀ j, j < bs.length → t.written .pay j = bs[j]?) ∧
      ∀ a, a < 0x0400 ∨ 0x0400 + bs.length ≤ a → Sparse.get t.mem a = Sparse.get s.mem a) ∧
  (∀ (s : State) (bs : List Byte) (rest : List Txn), (Pseudo.ldrx bs).wf Config.params = true →
    s.script = Pseudo.txns (.ldrx bs) ++ rest →
    ∃ t, runs (bs.length + 1) s = .next t ∧
      t = { s with mem := t.mem, rlen := t.rlen, script := rest, answer := .writeDone, freeCtr := t.freeCtr } ∧
      t.rlen.toNat = bs.length ∧ (∀ j, j < bs.length → t.written .rx j = bs[j]?) ∧
      ∀ a, a < 0x0C00 ∨ 0x0C00 + bs.length ≤ a → Sparse.get t.mem a = Sparse.get s.mem a) ∧
  (∀ (s : State) (u f : Byte) (a c : Half) (rest : List Txn),
    s.script = Pseudo.txns (.setreq u f a c) ++ rest →
    ∃ t, runs 4 s = .next t ∧
      t = { s with unit := u, func := f, addr := a, count := c,
                   script := rest, answer := .writeDone, freeCtr := t.freeCtr })
end

