-- ==== Sys2Proof/Laws/Memory.lean ====
section
/-! SUPPORT. The laws of the sparse memories: a read after a write, the canonical form, and that two canonical
memories with the same contents are the same list. -/

namespace Sys2Proof.Machine

variable {α : Type}

theorem Sparse.get_set (m : Sparse α) (k j : Nat) (v : α) :
    Sparse.get (Sparse.set m k v) j = if k = j then some v else Sparse.get m j := by
  induction m with
  | nil => simp [Sparse.set, Sparse.get]
  | cons e m ih =>
    obtain ⟨a, x⟩ := e
    unfold Sparse.set
    split
    · simp [Sparse.get]
    · split
      · rename_i h; subst h
        simp only [Sparse.get]
        split <;> rfl
      · rename_i hne
        simp only [Sparse.get, ih]
        split
        · rename_i h; subst h; simp [Ne.symm hne]
        · rfl

@[simp] theorem Sparse.get_set_self (m : Sparse α) (k : Nat) (v : α) :
    Sparse.get (Sparse.set m k v) k = some v := by simp [Sparse.get_set]

theorem Sparse.get_set_ne (m : Sparse α) {k j : Nat} (v : α) (h : k ≠ j) :
    Sparse.get (Sparse.set m k v) j = Sparse.get m j := by simp [Sparse.get_set, h]

/-- A write never makes a location unwritten. -/
theorem Sparse.isSome_get_set (m : Sparse α) (k j : Nat) (v : α) (h : (Sparse.get m j).isSome = true) :
    (Sparse.get (Sparse.set m k v) j).isSome = true := by
  rw [Sparse.get_set]; split <;> simp [h]

/-- What a write lists is the written entry and old entries. -/
theorem Sparse.mem_set {m : Sparse α} {k : Nat} {v : α} {e : Nat × α} (h : e ∈ Sparse.set m k v) :
    e = (k, v) ∨ e ∈ m := by
  induction m with
  | nil => simpa [Sparse.set] using h
  | cons a m ih =>
    obtain ⟨a, x⟩ := a
    unfold Sparse.set at h
    split at h
    · simpa using h
    · split at h
      · rcases List.mem_cons.1 h with h | h
        · exact .inl h
        · exact .inr (List.mem_cons_of_mem _ h)
      · rcases List.mem_cons.1 h with h | h
        · exact .inr (h ▸ List.mem_cons_self)
        · exact (ih h).imp_right (List.mem_cons_of_mem _)

/-- The canonical form as a pairwise statement. -/
theorem Sparse.rising_iff (m : Sparse α) :
    Sparse.rising m = true ↔ m.Pairwise fun e f => e.1 < f.1 := by
  induction m with
  | nil => simp [Sparse.rising]
  | cons e m ih =>
    obtain ⟨a, x⟩ := e
    cases m with
    | nil => simp [Sparse.rising]
    | cons f m =>
      obtain ⟨b, y⟩ := f
      simp only [Sparse.rising, Bool.and_eq_true, decide_eq_true_eq, ih]
      constructor
      · rintro ⟨hab, hp⟩
        refine List.pairwise_cons.2 ⟨fun g hg => ?_, hp⟩
        rcases List.mem_cons.1 hg with h | h
        · simpa [h] using hab
        · exact Nat.lt_trans hab ((List.pairwise_cons.1 hp).1 g h)
      · intro h
        obtain ⟨h1, h2⟩ := List.pairwise_cons.1 h
        exact ⟨h1 (b, y) List.mem_cons_self, h2⟩

/-- A write keeps the canonical form. -/
theorem Sparse.rising_set {m : Sparse α} (k : Nat) (v : α) (h : Sparse.rising m = true) :
    Sparse.rising (Sparse.set m k v) = true := by
  rw [Sparse.rising_iff] at h ⊢
  induction m with
  | nil => simp [Sparse.set]
  | cons e m ih =>
    obtain ⟨a, x⟩ := e
    obtain ⟨hlt, hp⟩ := List.pairwise_cons.1 h
    unfold Sparse.set
    split
    · rename_i hk
      refine List.pairwise_cons.2 ⟨fun g hg => ?_, h⟩
      rcases List.mem_cons.1 hg with rfl | hg
      · exact hk
      · exact Nat.lt_trans hk (hlt g hg)
    · split
      · rename_i hk; subst hk; exact List.pairwise_cons.2 ⟨hlt, hp⟩
      · refine List.pairwise_cons.2 ⟨fun g hg => ?_, ih hp⟩
        rcases Sparse.mem_set hg with rfl | hg
        · simp only; omega
        · exact hlt g hg

/-- A key below every listed key has never been written. -/
theorem Sparse.get_eq_none_of_lt {m : Sparse α} {k : Nat} (h : ∀ e ∈ m, k < e.1) : Sparse.get m k = none := by
  induction m with
  | nil => rfl
  | cons e m ih =>
    obtain ⟨a, x⟩ := e
    have hk : k < a := h (a, x) List.mem_cons_self
    simp only [Sparse.get, if_neg (Nat.ne_of_gt hk)]
    exact ih fun e he => h e (List.mem_cons_of_mem _ he)

/-- In a canonical memory, writing what is there changes nothing. -/
theorem Sparse.set_of_get {m : Sparse α} {k : Nat} {v : α} (hm : Sparse.rising m = true)
    (h : Sparse.get m k = some v) : Sparse.set m k v = m := by
  rw [Sparse.rising_iff] at hm
  induction m with
  | nil => simp [Sparse.get] at h
  | cons e m ih =>
    obtain ⟨a, x⟩ := e
    obtain ⟨hlt, hp⟩ := List.pairwise_cons.1 hm
    by_cases hak : a = k
    · subst hak
      simp only [Sparse.get, if_true, Option.some.injEq] at h
      simp [Sparse.set, h]
    · simp only [Sparse.get, if_neg hak] at h
      have hk : ¬ k < a := fun hk => by
        rw [Sparse.get_eq_none_of_lt fun e he => Nat.lt_trans hk (hlt e he)] at h
        cases h
      simp [Sparse.set, hk, hak, ih hp h]

end Sys2Proof.Machine
end

