-- ==== Sys2Proof/Laws/State.lean ====
section
/-! SUPPORT. One lemma per field of State per named update, true by definition, and the same for the updates
that write a sequence. -/

namespace Sys2Proof.Machine

@[simp] theorem State.popped_err (s : State) (rest : List Txn) : (s.popped rest).err = s.err := rfl
@[simp] theorem State.popped_acc (s : State) (rest : List Txn) : (s.popped rest).acc = s.acc := rfl
@[simp] theorem State.popped_unit (s : State) (rest : List Txn) : (s.popped rest).unit = s.unit := rfl
@[simp] theorem State.popped_func (s : State) (rest : List Txn) : (s.popped rest).func = s.func := rfl
@[simp] theorem State.popped_addr (s : State) (rest : List Txn) : (s.popped rest).addr = s.addr := rfl
@[simp] theorem State.popped_count (s : State) (rest : List Txn) : (s.popped rest).count = s.count := rfl
@[simp] theorem State.popped_plen (s : State) (rest : List Txn) : (s.popped rest).plen = s.plen := rfl
@[simp] theorem State.popped_tlen (s : State) (rest : List Txn) : (s.popped rest).tlen = s.tlen := rfl
@[simp] theorem State.popped_rlen (s : State) (rest : List Txn) : (s.popped rest).rlen = s.rlen := rfl
@[simp] theorem State.popped_rdcnt (s : State) (rest : List Txn) : (s.popped rest).rdcnt = s.rdcnt := rfl
@[simp] theorem State.popped_crcOk (s : State) (rest : List Txn) : (s.popped rest).crcOk = s.crcOk := rfl
@[simp] theorem State.popped_rdv (s : State) (rest : List Txn) : (s.popped rest).rdv = s.rdv := rfl
@[simp] theorem State.popped_mem (s : State) (rest : List Txn) : (s.popped rest).mem = s.mem := rfl
@[simp] theorem State.popped_rd (s : State) (rest : List Txn) : (s.popped rest).rd = s.rd := rfl
@[simp] theorem State.popped_script (s : State) (rest : List Txn) : (s.popped rest).script = rest := rfl
@[simp] theorem State.popped_answer (s : State) (rest : List Txn) : (s.popped rest).answer = s.answer := rfl
@[simp] theorem State.popped_freeCtr (s : State) (rest : List Txn) : (s.popped rest).freeCtr = s.freeCtr + 1 := rfl

@[simp] theorem State.answered_err (s : State) (a : Answer) : (s.answered a).err = s.err := rfl
@[simp] theorem State.answered_acc (s : State) (a : Answer) : (s.answered a).acc = s.acc := rfl
@[simp] theorem State.answered_unit (s : State) (a : Answer) : (s.answered a).unit = s.unit := rfl
@[simp] theorem State.answered_func (s : State) (a : Answer) : (s.answered a).func = s.func := rfl
@[simp] theorem State.answered_addr (s : State) (a : Answer) : (s.answered a).addr = s.addr := rfl
@[simp] theorem State.answered_count (s : State) (a : Answer) : (s.answered a).count = s.count := rfl
@[simp] theorem State.answered_plen (s : State) (a : Answer) : (s.answered a).plen = s.plen := rfl
@[simp] theorem State.answered_tlen (s : State) (a : Answer) : (s.answered a).tlen = s.tlen := rfl
@[simp] theorem State.answered_rlen (s : State) (a : Answer) : (s.answered a).rlen = s.rlen := rfl
@[simp] theorem State.answered_rdcnt (s : State) (a : Answer) : (s.answered a).rdcnt = s.rdcnt := rfl
@[simp] theorem State.answered_crcOk (s : State) (a : Answer) : (s.answered a).crcOk = s.crcOk := rfl
@[simp] theorem State.answered_rdv (s : State) (a : Answer) : (s.answered a).rdv = s.rdv := rfl
@[simp] theorem State.answered_mem (s : State) (a : Answer) : (s.answered a).mem = s.mem := rfl
@[simp] theorem State.answered_rd (s : State) (a : Answer) : (s.answered a).rd = s.rd := rfl
@[simp] theorem State.answered_script (s : State) (a : Answer) : (s.answered a).script = s.script := rfl
@[simp] theorem State.answered_answer (s : State) (a : Answer) : (s.answered a).answer = a := rfl
@[simp] theorem State.answered_freeCtr (s : State) (a : Answer) : (s.answered a).freeCtr = s.freeCtr := rfl

@[simp] theorem State.memWrite_err (s : State) (b : Buf) (i : Nat) (v : Byte) : (s.memWrite b i v).err = s.err := rfl
@[simp] theorem State.memWrite_acc (s : State) (b : Buf) (i : Nat) (v : Byte) : (s.memWrite b i v).acc = s.acc := rfl
@[simp] theorem State.memWrite_unit (s : State) (b : Buf) (i : Nat) (v : Byte) : (s.memWrite b i v).unit = s.unit := rfl
@[simp] theorem State.memWrite_func (s : State) (b : Buf) (i : Nat) (v : Byte) : (s.memWrite b i v).func = s.func := rfl
@[simp] theorem State.memWrite_addr (s : State) (b : Buf) (i : Nat) (v : Byte) : (s.memWrite b i v).addr = s.addr := rfl
@[simp] theorem State.memWrite_count (s : State) (b : Buf) (i : Nat) (v : Byte) : (s.memWrite b i v).count = s.count := rfl
@[simp] theorem State.memWrite_plen (s : State) (b : Buf) (i : Nat) (v : Byte) : (s.memWrite b i v).plen = s.plen := rfl
@[simp] theorem State.memWrite_tlen (s : State) (b : Buf) (i : Nat) (v : Byte) : (s.memWrite b i v).tlen = s.tlen := rfl
@[simp] theorem State.memWrite_rlen (s : State) (b : Buf) (i : Nat) (v : Byte) : (s.memWrite b i v).rlen = s.rlen := rfl
@[simp] theorem State.memWrite_rdcnt (s : State) (b : Buf) (i : Nat) (v : Byte) : (s.memWrite b i v).rdcnt = s.rdcnt := rfl
@[simp] theorem State.memWrite_crcOk (s : State) (b : Buf) (i : Nat) (v : Byte) : (s.memWrite b i v).crcOk = s.crcOk := rfl
@[simp] theorem State.memWrite_rdv (s : State) (b : Buf) (i : Nat) (v : Byte) : (s.memWrite b i v).rdv = s.rdv := rfl
@[simp] theorem State.memWrite_mem (s : State) (b : Buf) (i : Nat) (v : Byte) : (s.memWrite b i v).mem = Sparse.set s.mem (Buf.base b + i) v := rfl
@[simp] theorem State.memWrite_rd (s : State) (b : Buf) (i : Nat) (v : Byte) : (s.memWrite b i v).rd = s.rd := rfl
@[simp] theorem State.memWrite_script (s : State) (b : Buf) (i : Nat) (v : Byte) : (s.memWrite b i v).script = s.script := rfl
@[simp] theorem State.memWrite_answer (s : State) (b : Buf) (i : Nat) (v : Byte) : (s.memWrite b i v).answer = s.answer := rfl
@[simp] theorem State.memWrite_freeCtr (s : State) (b : Buf) (i : Nat) (v : Byte) : (s.memWrite b i v).freeCtr = s.freeCtr := rfl

@[simp] theorem State.writeRd_err (s : State) (k : Nat) (r : Reading) : (s.writeRd k r).err = s.err := rfl
@[simp] theorem State.writeRd_acc (s : State) (k : Nat) (r : Reading) : (s.writeRd k r).acc = s.acc := rfl
@[simp] theorem State.writeRd_unit (s : State) (k : Nat) (r : Reading) : (s.writeRd k r).unit = s.unit := rfl
@[simp] theorem State.writeRd_func (s : State) (k : Nat) (r : Reading) : (s.writeRd k r).func = s.func := rfl
@[simp] theorem State.writeRd_addr (s : State) (k : Nat) (r : Reading) : (s.writeRd k r).addr = s.addr := rfl
@[simp] theorem State.writeRd_count (s : State) (k : Nat) (r : Reading) : (s.writeRd k r).count = s.count := rfl
@[simp] theorem State.writeRd_plen (s : State) (k : Nat) (r : Reading) : (s.writeRd k r).plen = s.plen := rfl
@[simp] theorem State.writeRd_tlen (s : State) (k : Nat) (r : Reading) : (s.writeRd k r).tlen = s.tlen := rfl
@[simp] theorem State.writeRd_rlen (s : State) (k : Nat) (r : Reading) : (s.writeRd k r).rlen = s.rlen := rfl
@[simp] theorem State.writeRd_rdcnt (s : State) (k : Nat) (r : Reading) : (s.writeRd k r).rdcnt = s.rdcnt := rfl
@[simp] theorem State.writeRd_crcOk (s : State) (k : Nat) (r : Reading) : (s.writeRd k r).crcOk = s.crcOk := rfl
@[simp] theorem State.writeRd_rdv (s : State) (k : Nat) (r : Reading) : (s.writeRd k r).rdv = s.rdv := rfl
@[simp] theorem State.writeRd_mem (s : State) (k : Nat) (r : Reading) : (s.writeRd k r).mem = s.mem := rfl
@[simp] theorem State.writeRd_rd (s : State) (k : Nat) (r : Reading) : (s.writeRd k r).rd = Sparse.set s.rd k r := rfl
@[simp] theorem State.writeRd_script (s : State) (k : Nat) (r : Reading) : (s.writeRd k r).script = s.script := rfl
@[simp] theorem State.writeRd_answer (s : State) (k : Nat) (r : Reading) : (s.writeRd k r).answer = s.answer := rfl
@[simp] theorem State.writeRd_freeCtr (s : State) (k : Nat) (r : Reading) : (s.writeRd k r).freeCtr = s.freeCtr := rfl

@[simp] theorem State.noReadings_err (s : State) : s.noReadings.err = s.err := rfl
@[simp] theorem State.noReadings_acc (s : State) : s.noReadings.acc = s.acc := rfl
@[simp] theorem State.noReadings_unit (s : State) : s.noReadings.unit = s.unit := rfl
@[simp] theorem State.noReadings_func (s : State) : s.noReadings.func = s.func := rfl
@[simp] theorem State.noReadings_addr (s : State) : s.noReadings.addr = s.addr := rfl
@[simp] theorem State.noReadings_count (s : State) : s.noReadings.count = s.count := rfl
@[simp] theorem State.noReadings_plen (s : State) : s.noReadings.plen = s.plen := rfl
@[simp] theorem State.noReadings_tlen (s : State) : s.noReadings.tlen = s.tlen := rfl
@[simp] theorem State.noReadings_rlen (s : State) : s.noReadings.rlen = s.rlen := rfl
@[simp] theorem State.noReadings_rdcnt (s : State) : s.noReadings.rdcnt = 0 := rfl
@[simp] theorem State.noReadings_crcOk (s : State) : s.noReadings.crcOk = s.crcOk := rfl
@[simp] theorem State.noReadings_rdv (s : State) : s.noReadings.rdv = false := rfl
@[simp] theorem State.noReadings_mem (s : State) : s.noReadings.mem = s.mem := rfl
@[simp] theorem State.noReadings_rd (s : State) : s.noReadings.rd = s.rd := rfl
@[simp] theorem State.noReadings_script (s : State) : s.noReadings.script = s.script := rfl
@[simp] theorem State.noReadings_answer (s : State) : s.noReadings.answer = s.answer := rfl
@[simp] theorem State.noReadings_freeCtr (s : State) : s.noReadings.freeCtr = s.freeCtr := rfl

/-- Writing a sequence changes one memory and nothing else. -/
theorem State.memWriteSeq_eq (s : State) (b : Buf) (i : Nat) (vs : List Byte) : (s.memWriteSeq b i vs) = { s with mem := (s.memWriteSeq b i vs).mem } := by
  induction vs generalizing s i with
  | nil => rfl
  | cons v vs ih => exact ih _ _

@[simp] theorem State.memWriteSeq_err (s : State) (b : Buf) (i : Nat) (vs : List Byte) : (s.memWriteSeq b i vs).err = s.err := by rw [State.memWriteSeq_eq]
@[simp] theorem State.memWriteSeq_acc (s : State) (b : Buf) (i : Nat) (vs : List Byte) : (s.memWriteSeq b i vs).acc = s.acc := by rw [State.memWriteSeq_eq]
@[simp] theorem State.memWriteSeq_unit (s : State) (b : Buf) (i : Nat) (vs : List Byte) : (s.memWriteSeq b i vs).unit = s.unit := by rw [State.memWriteSeq_eq]
@[simp] theorem State.memWriteSeq_func (s : State) (b : Buf) (i : Nat) (vs : List Byte) : (s.memWriteSeq b i vs).func = s.func := by rw [State.memWriteSeq_eq]
@[simp] theorem State.memWriteSeq_addr (s : State) (b : Buf) (i : Nat) (vs : List Byte) : (s.memWriteSeq b i vs).addr = s.addr := by rw [State.memWriteSeq_eq]
@[simp] theorem State.memWriteSeq_count (s : State) (b : Buf) (i : Nat) (vs : List Byte) : (s.memWriteSeq b i vs).count = s.count := by rw [State.memWriteSeq_eq]
@[simp] theorem State.memWriteSeq_plen (s : State) (b : Buf) (i : Nat) (vs : List Byte) : (s.memWriteSeq b i vs).plen = s.plen := by rw [State.memWriteSeq_eq]
@[simp] theorem State.memWriteSeq_tlen (s : State) (b : Buf) (i : Nat) (vs : List Byte) : (s.memWriteSeq b i vs).tlen = s.tlen := by rw [State.memWriteSeq_eq]
@[simp] theorem State.memWriteSeq_rlen (s : State) (b : Buf) (i : Nat) (vs : List Byte) : (s.memWriteSeq b i vs).rlen = s.rlen := by rw [State.memWriteSeq_eq]
@[simp] theorem State.memWriteSeq_rdcnt (s : State) (b : Buf) (i : Nat) (vs : List Byte) : (s.memWriteSeq b i vs).rdcnt = s.rdcnt := by rw [State.memWriteSeq_eq]
@[simp] theorem State.memWriteSeq_crcOk (s : State) (b : Buf) (i : Nat) (vs : List Byte) : (s.memWriteSeq b i vs).crcOk = s.crcOk := by rw [State.memWriteSeq_eq]
@[simp] theorem State.memWriteSeq_rdv (s : State) (b : Buf) (i : Nat) (vs : List Byte) : (s.memWriteSeq b i vs).rdv = s.rdv := by rw [State.memWriteSeq_eq]
@[simp] theorem State.memWriteSeq_rd (s : State) (b : Buf) (i : Nat) (vs : List Byte) : (s.memWriteSeq b i vs).rd = s.rd := by rw [State.memWriteSeq_eq]
@[simp] theorem State.memWriteSeq_script (s : State) (b : Buf) (i : Nat) (vs : List Byte) : (s.memWriteSeq b i vs).script = s.script := by rw [State.memWriteSeq_eq]
@[simp] theorem State.memWriteSeq_answer (s : State) (b : Buf) (i : Nat) (vs : List Byte) : (s.memWriteSeq b i vs).answer = s.answer := by rw [State.memWriteSeq_eq]
@[simp] theorem State.memWriteSeq_freeCtr (s : State) (b : Buf) (i : Nat) (vs : List Byte) : (s.memWriteSeq b i vs).freeCtr = s.freeCtr := by rw [State.memWriteSeq_eq]

/-- Writing a sequence changes one memory and nothing else. -/
theorem State.writeRdSeq_eq (s : State) (k : Nat) (rs : List Reading) : (s.writeRdSeq k rs) = { s with rd := (s.writeRdSeq k rs).rd } := by
  induction rs generalizing s k with
  | nil => rfl
  | cons v rs ih => exact ih _ _

@[simp] theorem State.writeRdSeq_err (s : State) (k : Nat) (rs : List Reading) : (s.writeRdSeq k rs).err = s.err := by rw [State.writeRdSeq_eq]
@[simp] theorem State.writeRdSeq_acc (s : State) (k : Nat) (rs : List Reading) : (s.writeRdSeq k rs).acc = s.acc := by rw [State.writeRdSeq_eq]
@[simp] theorem State.writeRdSeq_unit (s : State) (k : Nat) (rs : List Reading) : (s.writeRdSeq k rs).unit = s.unit := by rw [State.writeRdSeq_eq]
@[simp] theorem State.writeRdSeq_func (s : State) (k : Nat) (rs : List Reading) : (s.writeRdSeq k rs).func = s.func := by rw [State.writeRdSeq_eq]
@[simp] theorem State.writeRdSeq_addr (s : State) (k : Nat) (rs : List Reading) : (s.writeRdSeq k rs).addr = s.addr := by rw [State.writeRdSeq_eq]
@[simp] theorem State.writeRdSeq_count (s : State) (k : Nat) (rs : List Reading) : (s.writeRdSeq k rs).count = s.count := by rw [State.writeRdSeq_eq]
@[simp] theorem State.writeRdSeq_plen (s : State) (k : Nat) (rs : List Reading) : (s.writeRdSeq k rs).plen = s.plen := by rw [State.writeRdSeq_eq]
@[simp] theorem State.writeRdSeq_tlen (s : State) (k : Nat) (rs : List Reading) : (s.writeRdSeq k rs).tlen = s.tlen := by rw [State.writeRdSeq_eq]
@[simp] theorem State.writeRdSeq_rlen (s : State) (k : Nat) (rs : List Reading) : (s.writeRdSeq k rs).rlen = s.rlen := by rw [State.writeRdSeq_eq]
@[simp] theorem State.writeRdSeq_rdcnt (s : State) (k : Nat) (rs : List Reading) : (s.writeRdSeq k rs).rdcnt = s.rdcnt := by rw [State.writeRdSeq_eq]
@[simp] theorem State.writeRdSeq_crcOk (s : State) (k : Nat) (rs : List Reading) : (s.writeRdSeq k rs).crcOk = s.crcOk := by rw [State.writeRdSeq_eq]
@[simp] theorem State.writeRdSeq_rdv (s : State) (k : Nat) (rs : List Reading) : (s.writeRdSeq k rs).rdv = s.rdv := by rw [State.writeRdSeq_eq]
@[simp] theorem State.writeRdSeq_mem (s : State) (k : Nat) (rs : List Reading) : (s.writeRdSeq k rs).mem = s.mem := by rw [State.writeRdSeq_eq]
@[simp] theorem State.writeRdSeq_script (s : State) (k : Nat) (rs : List Reading) : (s.writeRdSeq k rs).script = s.script := by rw [State.writeRdSeq_eq]
@[simp] theorem State.writeRdSeq_answer (s : State) (k : Nat) (rs : List Reading) : (s.writeRdSeq k rs).answer = s.answer := by rw [State.writeRdSeq_eq]
@[simp] theorem State.writeRdSeq_freeCtr (s : State) (k : Nat) (rs : List Reading) : (s.writeRdSeq k rs).freeCtr = s.freeCtr := by rw [State.writeRdSeq_eq]

end Sys2Proof.Machine
end

