-- ==== Sys2Proof/Laws/Ops.lean ====
section
/-! SUPPORT. What each shared operation can do, said once: sequences of writes, slices, discarding in the Failed
state, the buffer bound. -/

namespace Sys2Proof.Machine

/-! ### Sequences of writes -/

theorem State.memWriteSeq_append (s : State) (b : Buf) (i : Nat) (xs ys : List Byte) :
    s.memWriteSeq b i (xs ++ ys) = (s.memWriteSeq b i xs).memWriteSeq b (i + xs.length) ys := by
  induction xs generalizing s i with
  | nil => rfl
  | cons x xs ih =>
    simp only [List.cons_append, State.memWriteSeq, ih, List.length_cons]
    congr 1; omega

/-- What a location holds after a sequence of writes. -/
theorem State.get_memWriteSeq (s : State) (b : Buf) (i : Nat) (vs : List Byte) (a : Nat) :
    Sparse.get (s.memWriteSeq b i vs).mem a =
      if Buf.base b + i ≤ a ∧ a < Buf.base b + i + vs.length then vs[a - (Buf.base b + i)]?
      else Sparse.get s.mem a := by
  induction vs generalizing s i with
  | nil => simp only [State.memWriteSeq, List.length_nil]; rw [if_neg (by omega)]
  | cons v vs ih =>
    simp only [State.memWriteSeq, ih, State.memWrite_mem, Sparse.get_set, List.length_cons]
    by_cases h : Buf.base b + i = a
    · subst h
      rw [if_neg (by omega), if_pos rfl, if_pos (by omega)]; simp
    · by_cases h2 : Buf.base b + (i + 1) ≤ a ∧ a < Buf.base b + (i + 1) + vs.length
      · rw [if_pos h2, if_pos (by omega), show a - (Buf.base b + i) = (a - (Buf.base b + (i + 1))) + 1 by omega]
        simp
      · rw [if_neg h2, if_neg h, if_neg (by omega)]

theorem State.memWriteSeq_mem_wf {s : State} (b : Buf) (i : Nat) (vs : List Byte) (h : Memory.wf s.mem = true) :
    Memory.wf (s.memWriteSeq b i vs).mem = true := by
  induction vs generalizing s i with
  | nil => exact h
  | cons v vs ih => exact ih _ (Sparse.rising_set _ _ h)

/-- What a sequence of writes lists is one of its locations or an old entry. -/
theorem State.mem_memWriteSeq {s : State} {b : Buf} {i : Nat} {vs : List Byte} {c : Host.Cell}
    (h : c ∈ (s.memWriteSeq b i vs).mem) :
    (Buf.base b + i ≤ c.1 ∧ c.1 < Buf.base b + i + vs.length) ∨ c ∈ s.mem := by
  induction vs generalizing s i with
  | nil => exact .inr h
  | cons v vs ih =>
    simp only [List.length_cons]
    rcases ih h with h | h
    · left; omega
    · rcases Sparse.mem_set h with rfl | h
      · left; simp only; omega
      · exact .inr h

/-- What an entry of RD holds after a sequence of readings. -/
theorem State.get_writeRdSeq (s : State) (k : Nat) (rs : List Reading) (j : Nat) :
    (s.writeRdSeq k rs).writtenRd j = if k ≤ j ∧ j < k + rs.length then rs[j - k]? else s.writtenRd j := by
  unfold State.writtenRd
  induction rs generalizing s k with
  | nil => simp only [State.writeRdSeq, List.length_nil]; rw [if_neg (by omega)]
  | cons r rs ih =>
    simp only [State.writeRdSeq, ih, State.writeRd_rd, Sparse.get_set, List.length_cons]
    by_cases h : k = j
    · subst h
      rw [if_neg (by omega), if_pos rfl, if_pos (by omega)]; simp
    · by_cases h2 : k + 1 ≤ j ∧ j < k + 1 + rs.length
      · rw [if_pos h2, if_pos (by omega), show j - k = (j - (k + 1)) + 1 by omega]; simp
      · rw [if_neg h2, if_neg h, if_neg (by omega)]

theorem State.writeRdSeq_rd_wf {s : State} (k : Nat) (rs : List Reading) (h : Sparse.rising s.rd = true) :
    Sparse.rising (s.writeRdSeq k rs).rd = true := by
  induction rs generalizing s k with
  | nil => exact h
  | cons r rs ih => exact ih _ (Sparse.rising_set _ _ h)

theorem State.mem_writeRdSeq {s : State} {k : Nat} {rs : List Reading} {e : Nat × Reading}
    (h : e ∈ (s.writeRdSeq k rs).rd) : (k ≤ e.1 ∧ e.1 < k + rs.length) ∨ e ∈ s.rd := by
  induction rs generalizing s k with
  | nil => exact .inr h
  | cons r rs ih =>
    simp only [List.length_cons]
    rcases ih h with h | h
    · left; omega
    · rcases Sparse.mem_set h with rfl | h
      · left; simp only; omega
      · exact .inr h

/-! ### Reading -/

theorem State.memRead_of_written {s : State} {b : Buf} {i : Nat} {v : Byte} (h : s.written b i = some v)
    (site : ReadSite) : s.memRead site b i = v := by simp [State.memRead, h]

/-- A read depends on the location and, where nothing has been written, on the free values' number. -/
theorem State.memRead_congr {s t : State} {b : Buf} {i : Nat} (site : ReadSite)
    (hm : t.written b i = s.written b i) (hc : t.freeCtr = s.freeCtr) : t.memRead site b i = s.memRead site b i := by
  simp [State.memRead, hm, hc]

@[simp] theorem State.slice_length (s : State) (site : ReadSite) (b : Buf) (a n : Nat) :
    (s.slice site b a n).length = n := by simp [State.slice]

theorem State.slice_getElem? (s : State) (site : ReadSite) (b : Buf) (a n j : Nat) (h : j < n) :
    (s.slice site b a n)[j]? = some (s.memRead site b (a + j)) := by
  simp [State.slice, h]

theorem State.slice_congr {s t : State} {b : Buf} {a n : Nat} (site : ReadSite)
    (h : ∀ j, j < n → t.memRead site b (a + j) = s.memRead site b (a + j)) :
    t.slice site b a n = s.slice site b a n := by
  apply List.ext_getElem? fun j => ?_
  by_cases hj : j < n
  · rw [State.slice_getElem? _ _ _ _ _ _ hj, State.slice_getElem? _ _ _ _ _ _ hj, h j hj]
  · rw [List.getElem?_eq_none (by simp; omega), List.getElem?_eq_none (by simp; omega)]

/-- Reading locations that hold a sequence gives the sequence. -/
theorem State.slice_of_written {s : State} {b : Buf} {a : Nat} {vs : List Byte}
    (h : ∀ j, j < vs.length → s.written b (a + j) = vs[j]?) (site : ReadSite) :
    s.slice site b a vs.length = vs := by
  apply List.ext_getElem? fun j => ?_
  by_cases hj : j < vs.length
  · rw [State.slice_getElem? _ _ _ _ _ _ hj]
    have hw := h j hj
    rw [List.getElem?_eq_getElem hj] at hw ⊢
    rw [State.memRead_of_written hw]
  · rw [List.getElem?_eq_none (by simp; omega), List.getElem?_eq_none (by omega)]

theorem State.slice_take (s : State) (site : ReadSite) (b : Buf) (a n k : Nat) (h : k ≤ n) :
    (s.slice site b a n).take k = s.slice site b a k := by
  apply List.ext_getElem? fun j => ?_
  by_cases hj : j < k
  · rw [List.getElem?_take_of_lt hj, State.slice_getElem? _ _ _ _ _ _ hj,
      State.slice_getElem? _ _ _ _ _ _ (by omega)]
  · rw [List.getElem?_eq_none (by simp; omega), List.getElem?_eq_none (by simp; omega)]

/-! ### The precondition, the buffer bound, raising -/

/-- A command that answers a next state was discarded in the Failed state or ran. -/
theorem State.unlessFailed_next {s t : State} {k : Result} (h : s.unlessFailed k = .next t) :
    (s.err ≠ 0 ∧ t = s) ∨ (s.err = 0 ∧ k = .next t) := by
  unfold State.unlessFailed at h
  split at h
  · exact .inr ⟨‹_›, h⟩
  · injection h with h; exact .inl ⟨‹_›, h.symm⟩

theorem State.unlessFailed_of_failed {s : State} (k : Result) (h : s.err ≠ 0) : s.unlessFailed k = .next s :=
  if_neg h

theorem State.unlessFailed_of_ok {s : State} (k : Result) (h : s.err = 0) : s.unlessFailed k = k := if_pos h

/-- A command over a buffer that answers a next state read existing locations only. -/
theorem withinBuffer_next {p : Params} {b : Buf} {n : Nat} {k : Result} {t : State}
    (h : withinBuffer p b n k = .next t) : n ≤ Buf.size p b ∧ k = .next t := by
  unfold withinBuffer at h
  split at h
  · exact ⟨‹_›, h⟩
  · cases h

theorem withinBuffer_of_le {p : Params} {b : Buf} {n : Nat} (k : Result) (h : n ≤ Buf.size p b) :
    withinBuffer p b n k = k := if_pos h

theorem State.raise_next {s t : State} {c : Cause} (h : s.raise c = .next t) : t = { s with err := c.code } := by
  injection h with h; exact h.symm

end Sys2Proof.Machine
end

