-- ==== Sys2Proof/Laws/Commands.lean ====
section
/-! SUPPORT. What each command's shared operation can do, said once: if it answers a next state, then one of
these cases holds. -/

namespace Sys2Proof.Machine

/-- VERIFY: too short, or the comparison over existing locations. -/
theorem verifyFrame_next {p : Params} {b : Buf} {n : Nat} {s t : State} (h : verifyFrame p b n s = .next t) :
    (n < 2 ∧ t = { s with crcOk := false }) ∨
    (2 ≤ n ∧ n ≤ Buf.size p b ∧
      t = { s with
        acc := checksum (s.slice .frame b 0 (n - 2))
        crcOk := crcMatches (checksum (s.slice .frame b 0 (n - 2)))
          (s.memRead .frame b (n - 2)) (s.memRead .frame b (n - 1)) }) := by
  unfold verifyFrame at h
  split at h
  · injection h with h; exact .inl ⟨‹_›, h.symm⟩
  · obtain ⟨hn, h⟩ := withinBuffer_next h
    injection h with h
    exact .inr ⟨by omega, hn, h.symm⟩

/-- The bytes BUILD's checksum covers: the header and the payload as PAY gives it. -/
def State.requestBody (s : State) : List Byte :=
  requestHeader s.unit s.func s.addr s.count ++ s.slice .payload .pay 0 s.plen.toNat

@[simp] theorem requestHeader_length (u f : Byte) (a c : Half) : (requestHeader u f a c).length = 6 := rfl

@[simp] theorem State.requestBody_length (s : State) : s.requestBody.length = 6 + s.plen.toNat := by
  simp [State.requestBody]

/-- PAY and TX do not overlap for any value of PLEN, so copying the header first changes no payload byte. -/
theorem State.buildBody_eq (s : State) : s.buildBody = s.memWriteSeq .tx 0 s.requestBody := by
  have hslice : ∀ hd : List Byte, hd.length = 6 →
      (s.memWriteSeq .tx 0 hd).slice .payload .pay 0 s.plen.toNat = s.slice .payload .pay 0 s.plen.toNat := by
    intro hd hlen
    refine State.slice_congr _ fun j hj => State.memRead_congr _ ?_ (by simp)
    have hp := s.plen.isLt
    unfold State.written
    rw [State.get_memWriteSeq, if_neg]
    simp only [Buf.base]; omega
  unfold State.buildBody State.requestBody
  rw [State.memWriteSeq_append, requestHeader_length]
  simp only [Nat.zero_add, hslice _ (requestHeader_length ..)]

/-- A sequence just written to a buffer is what a slice of it reads. -/
theorem State.slice_memWriteSeq (s : State) (site : ReadSite) (b : Buf) (a : Nat) (vs : List Byte) :
    (s.memWriteSeq b a vs).slice site b a vs.length = vs := by
  refine State.slice_of_written (fun j hj => ?_) site
  unfold State.written
  rw [State.get_memWriteSeq, if_pos (by omega)]
  congr 1; omega

/-- BUILD with COUNT not 0 writes the body and its checksum to TX, and TLEN and ACC, and nothing else. -/
theorem State.buildFrame_eq (s : State) :
    s.buildFrame = { s with
      mem := (s.memWriteSeq .tx 0 (s.requestBody ++ le16 (checksum s.requestBody))).mem
      tlen := BitVec.ofNat 11 (8 + s.plen.toNat)
      acc := checksum s.requestBody } := by
  have hs := State.slice_memWriteSeq s .frame .tx 0 s.requestBody
  rw [State.requestBody_length] at hs
  unfold State.buildFrame
  simp only [State.buildBody_eq, hs]
  rw [State.memWriteSeq_append, State.requestBody_length, Nat.zero_add]
  rw [State.memWriteSeq_eq]
  simp

/-- BUILD: InvalidArgument, or the frame. -/
theorem buildCmd_next {p : Params} {s t : State} (h : buildCmd p s = .next t) :
    (s.count = 0 ∧ t = { s with tlen := 0, err := Cause.code .invalidArgument }) ∨
    (s.count ≠ 0 ∧ s.plen.toNat ≤ p.paySize ∧ t = s.buildFrame) := by
  unfold buildCmd at h
  split at h
  · exact .inl ⟨‹_›, State.raise_next h⟩
  · obtain ⟨hn, h⟩ := withinBuffer_next h
    injection h with h
    exact .inr ⟨‹_›, hn, h.symm⟩

/-- The state PARSE has once the response's checksum is compared, with n the declared byte count. -/
def State.checkedResponse (s : State) (n : Nat) : State :=
  { s with
    acc := checksum (s.slice .checksum .rx 0 (3 + n))
    crcOk := crcMatches (checksum (s.slice .checksum .rx 0 (3 + n)))
      (s.memRead .checksum .rx (3 + n)) (s.memRead .checksum .rx (4 + n)) }

/-- PARSE past check 2: CrcMismatch, OddByteCount, or the readings. -/
theorem parseDeclared_next {p : Params} {n : Nat} {s t : State} (h : parseDeclared p n s = .next t) :
    (p.strictCrc = true ∧ (s.checkedResponse n).crcOk = false ∧
      t = { (s.checkedResponse n).noReadings with err := Cause.code .crcMismatch }) ∨
    ((p.strictCrc = true → (s.checkedResponse n).crcOk = true) ∧ n % 2 = 1 ∧
      t = { (s.checkedResponse n).noReadings with err := Cause.code .oddByteCount }) ∨
    ((p.strictCrc = true → (s.checkedResponse n).crcOk = true) ∧ n % 2 = 0 ∧
      t = { (s.checkedResponse n).writeRdSeq 0 (readingsOf p s.addr n (s.memRead .data .rx)) with
        rdcnt := BitVec.ofNat 7 (n / 2)
        rdv := true }) := by
  unfold parseDeclared at h
  simp only at h
  split at h
  · rename_i hc
    simp only [Bool.and_eq_true, Bool.not_eq_true'] at hc
    exact .inl ⟨hc.1, hc.2, State.raise_next h⟩
  · rename_i hc
    have hok : p.strictCrc = true → (s.checkedResponse n).crcOk = true := by
      intro hp; simpa [hp, State.checkedResponse] using hc
    split at h
    · exact .inr (.inl ⟨hok, ‹_›, State.raise_next h⟩)
    · injection h with h
      exact .inr (.inr ⟨hok, by omega, h.symm⟩)

/-- PARSE: a truncated response, or what follows check 2. -/
theorem parseCmd_next {p : Params} {s t : State} (h : parseCmd p s = .next t) :
    (s.rlen.toNat < 5 ∧
      t = { s.noReadings with crcOk := false, err := Cause.code .truncatedHeader }) ∨
    (5 ≤ s.rlen.toNat ∧ s.rlen.toNat ≤ p.rxSize ∧ s.rlen.toNat < 3 + s.byteCount + 2 ∧
      t = { s.noReadings with crcOk := false, err := Cause.code .truncatedDeclared }) ∨
    (s.rlen.toNat ≤ p.rxSize ∧ 3 + s.byteCount + 2 ≤ s.rlen.toNat ∧
      parseDeclared p s.byteCount s = .next t) := by
  unfold parseCmd at h
  simp only at h
  split at h
  · exact .inl ⟨‹_›, State.raise_next h⟩
  · obtain ⟨hn, h⟩ := withinBuffer_next h
    simp only [Buf.size] at hn
    split at h
    · exact .inr (.inl ⟨by omega, hn, ‹_›, State.raise_next h⟩)
    · exact .inr (.inr ⟨hn, by omega, h⟩)

/-- Issuing a word runs the command it is, or raises or discards an illegal word. -/
theorem issue_next {w : Command} {s t : State} (h : issue w s = .next t) :
    (∃ i, decode w = .ok i ∧ exec i s = .next t) ∨
    (∃ e, decode w = .error e ∧ ((s.err ≠ 0 ∧ t = s) ∨
      (s.err = 0 ∧ t = { s with err := Cause.code .illegalCommand }))) := by
  unfold issue at h
  split at h
  · exact .inl ⟨_, ‹_›, h⟩
  · refine .inr ⟨_, ‹_›, ?_⟩
    rcases State.unlessFailed_next h with h | ⟨he, h⟩
    · exact .inl h
    · exact .inr ⟨he, State.raise_next h⟩

end Sys2Proof.Machine
end

