-- ==== Sys2Proof/Laws/Crc.lean ====
section
/-! SUPPORT. The Codec's small lemmas: bytes of a half, and the bit step as a linear map. -/

namespace Sys2Proof.Machine

theorem joinBytes_toNat (hi lo : Byte) : (joinBytes hi lo).toNat = 256 * hi.toNat + lo.toNat := by
  have h1 := hi.isLt
  have h2 := lo.isLt
  unfold joinBytes
  rw [BitVec.toNat_or, BitVec.toNat_shiftLeft]
  simp only [BitVec.toNat_setWidth]
  rw [Nat.mod_eq_of_lt (by omega : hi.toNat < 2 ^ 16), Nat.mod_eq_of_lt (by omega : lo.toNat < 2 ^ 16),
    Nat.mod_eq_of_lt (by rw [Nat.shiftLeft_eq]; omega)]
  rw [← Nat.shiftLeft_add_eq_or_of_lt h2, Nat.shiftLeft_eq]; omega

theorem lowByte_toNat (v : Half) : (lowByte v).toNat = v.toNat % 256 := by simp [lowByte, BitVec.extractLsb'_toNat]

theorem highByte_toNat (v : Half) : (highByte v).toNat = v.toNat / 256 := by
  have := v.isLt
  simp [highByte, BitVec.extractLsb'_toNat, Nat.shiftRight_eq_div_pow]; omega

theorem joinBytes_high_low (v : Half) : joinBytes (highByte v) (lowByte v) = v := by
  apply BitVec.eq_of_toNat_eq; rw [joinBytes_toNat, highByte_toNat, lowByte_toNat]; omega

theorem eq_joinBytes_iff (c : Half) (hi lo : Byte) : c = joinBytes hi lo ↔ c.toNat = 256 * hi.toNat + lo.toNat := by
  rw [← joinBytes_toNat]; exact ⟨fun h => by rw [h], BitVec.eq_of_toNat_eq⟩

/-- The two ways the spec compares a checksum with two bytes agree (40_crc R130, R131). -/
theorem eq_joinBytes_iff_bytes (c : Half) (hi lo : Byte) : c = joinBytes hi lo ↔ lowByte c = lo ∧ highByte c = hi := by
  constructor
  · rintro rfl
    have h1 := hi.isLt
    have h2 := lo.isLt
    exact ⟨BitVec.eq_of_toNat_eq (by rw [lowByte_toNat, joinBytes_toNat]; omega),
      BitVec.eq_of_toNat_eq (by rw [highByte_toNat, joinBytes_toNat]; omega)⟩
  · rintro ⟨rfl, rfl⟩; exact (joinBytes_high_low c).symm

/-- A byte enters the low half of the accumulator (40_crc R121). -/
theorem xor_setWidth_eq (a : Half) (b : Byte) : a ^^^ b.setWidth 16 = joinBytes (highByte a) (lowByte a ^^^ b) := by
  ext i hi; interval_cases i <;> simp [joinBytes, highByte, lowByte]

/-- The bit step is linear. -/
theorem crcBit_xor (a b : Half) : crcBit (a ^^^ b) = crcBit a ^^^ crcBit b := by
  unfold crcBit
  have hs : (a ^^^ b) >>> 1 = (a >>> 1) ^^^ (b >>> 1) := by ext i hi; simp
  rw [hs, BitVec.getLsbD_xor]
  cases ha : a.getLsbD 0 <;> cases hb : b.getLsbD 0 <;> simp [BitVec.xor_assoc]
  rw [BitVec.xor_comm]

/-- Eight bit steps shift a high byte down. -/
theorem crcBit_eight_high (h : Byte) :
    crcBit (crcBit (crcBit (crcBit (crcBit (crcBit (crcBit (crcBit (joinBytes h 0)))))))) = h.setWidth 16 := by
  have key : ∀ n, n < 8 → crcBit (joinBytes h 0 >>> n) = joinBytes h 0 >>> (n + 1) := by
    intro n hn
    unfold crcBit
    have hz : (joinBytes h 0 >>> n).getLsbD 0 = false := by simp [joinBytes]; omega
    rw [hz, ← BitVec.shiftRight_add]; rfl
  have h0 : joinBytes h 0 = joinBytes h 0 >>> 0 := by simp
  rw [h0, key 0 (by decide), key 1 (by decide), key 2 (by decide), key 3 (by decide), key 4 (by decide),
    key 5 (by decide), key 6 (by decide), key 7 (by decide)]
  apply BitVec.eq_of_toNat_eq
  have := h.isLt
  rw [BitVec.toNat_ushiftRight, joinBytes_toNat, Nat.shiftRight_eq_div_pow]
  simp; omega

end Sys2Proof.Machine
end

