-- ==== Sys2Proof/Laws/Decode.lean ====
section
/-! SUPPORT. Decoding said by numbers: the fields of a command word, and the eleven cases a word falls in. -/

namespace Sys2Proof

theorem toNat_opOf (w : Command) : (opOf w).toNat = w.toNat / 256 := by
  have := w.isLt
  simp [opOf, BitVec.extractLsb'_toNat, Nat.shiftRight_eq_div_pow]; omega

theorem toNat_immOf (w : Command) : (immOf w).toNat = w.toNat % 256 := by
  simp [immOf, BitVec.extractLsb'_toNat]

/-- A word equals a constant when its value does. -/
theorem command_eq_ofNat (w : Command) (k : Nat) (hk : k < 65536) : w = BitVec.ofNat 16 k ↔ w.toNat = k :=
  ⟨fun h => by rw [h]; simp; omega, fun h => BitVec.eq_of_toNat_eq (by simp; omega)⟩

theorem formatN_cases (w : Command) (i : Instr) :
    (w.toNat % 256 = 0 ∧ formatN w i = .ok i) ∨
    (w.toNat % 256 ≠ 0 ∧ formatN w i = .error (.nonzeroImmediate (opOf w) (immOf w))) := by
  have himm : immOf w = 0 ↔ w.toNat % 256 = 0 := by
    rw [← toNat_immOf]
    exact ⟨fun h => by rw [h]; rfl, fun h => BitVec.eq_of_toNat_eq (by simpa using h)⟩
  unfold formatN
  split
  · exact .inl ⟨himm.1 ‹_›, rfl⟩
  · exact .inr ⟨fun h => absurd (himm.2 h) ‹_›, rfl⟩

theorem formatS_cases (w : Command) (i : Sel → Instr) :
    (w.toNat % 256 = 0 ∧ formatS w i = .ok (i .tx)) ∨ (w.toNat % 256 = 1 ∧ formatS w i = .ok (i .rx)) ∨
    (2 ≤ w.toNat % 256 ∧ formatS w i = .error (.badSelector (immOf w))) := by
  have himm := toNat_immOf w
  have hlt := (immOf w).isLt
  have hx : (immOf w).extractLsb' 1 7 = 0 ↔ w.toNat % 256 < 2 := by
    rw [← himm]
    constructor
    · intro h
      have := congrArg BitVec.toNat h
      simp [BitVec.extractLsb'_toNat, Nat.shiftRight_eq_div_pow] at this; omega
    · intro h
      apply BitVec.eq_of_toNat_eq
      simp [BitVec.extractLsb'_toNat, Nat.shiftRight_eq_div_pow]; omega
  have h0 : (immOf w).getLsbD 0 = decide (w.toNat % 2 = 1) := by
    rw [BitVec.getLsbD, himm]; simp [Nat.testBit_zero]
  unfold formatS
  by_cases h : (immOf w).extractLsb' 1 7 = 0
  · rw [if_pos h, h0]
    have := hx.1 h
    by_cases h1 : w.toNat % 2 = 1
    · exact .inr (.inl ⟨by omega, by simp [h1, selOf]⟩)
    · exact .inl ⟨by omega, by simp [h1, selOf]⟩
  · rw [if_neg h]
    exact .inr (.inr ⟨by have := mt hx.2 h; omega, rfl⟩)

/-- The eleven cases of a command word: the eight kinds of legal word and the three illegal classes. -/
theorem decode_cases (w : Command) :
    (w.toNat = 0x0000 ∧ decode w = .ok .nop) ∨ (w.toNat = 0x0100 ∧ decode w = .ok .crcinit) ∨
    (w.toNat / 256 = 2 ∧ decode w = .ok (.crcupd (immOf w))) ∨
    (w.toNat = 0x0300 ∧ decode w = .ok (.verify .tx)) ∨ (w.toNat = 0x0301 ∧ decode w = .ok (.verify .rx)) ∨
    (w.toNat = 0x0400 ∧ decode w = .ok .build) ∨ (w.toNat = 0x0500 ∧ decode w = .ok .parse) ∨
    (w.toNat = 0x0600 ∧ decode w = .ok .clrf) ∨
    (7 ≤ w.toNat / 256 ∧ decode w = .error (.reservedOpcode (opOf w))) ∨
    (w.toNat / 256 ∈ [0, 1, 4, 5, 6] ∧ w.toNat % 256 ≠ 0 ∧
      decode w = .error (.nonzeroImmediate (opOf w) (immOf w))) ∨
    (w.toNat / 256 = 3 ∧ 2 ≤ w.toNat % 256 ∧ decode w = .error (.badSelector (immOf w))) := by
  have hN : ∀ (k : Nat) (i : Instr), k ∈ [0, 1, 4, 5, 6] → w.toNat / 256 = k → decode w = formatN w i →
      (w.toNat = 256 * k ∧ decode w = .ok i) ∨
      (w.toNat / 256 ∈ [0, 1, 4, 5, 6] ∧ w.toNat % 256 ≠ 0 ∧
        decode w = .error (.nonzeroImmediate (opOf w) (immOf w))) := by
    intro k i hk hw hd
    rcases formatN_cases w i with ⟨h, e⟩ | ⟨h, e⟩
    · exact .inl ⟨by omega, hd.trans e⟩
    · exact .inr ⟨hw ▸ hk, h, hd.trans e⟩
  have hd : decode w = match w.toNat / 256 with
      | 0 => formatN w .nop
      | 1 => formatN w .crcinit
      | 2 => formatB w .crcupd
      | 3 => formatS w .verify
      | 4 => formatN w .build
      | 5 => formatN w .parse
      | 6 => formatN w .clrf
      | _ => .error (.reservedOpcode (opOf w)) := by unfold decode; rw [toNat_opOf] <;> rfl
  match h : w.toNat / 256 with
  | 0 => rw [h] at hd; rcases hN 0 _ (by decide) h hd with h' | h' <;> simp_all
  | 1 => rw [h] at hd; rcases hN 1 _ (by decide) h hd with h' | h' <;> simp_all
  | 2 => rw [h] at hd; exact .inr (.inr (.inl ⟨rfl, hd⟩))
  | 3 =>
    rw [h] at hd
    rcases formatS_cases w .verify with ⟨h', e⟩ | ⟨h', e⟩ | ⟨h', e⟩
    · exact .inr (.inr (.inr (.inl ⟨by omega, hd.trans e⟩)))
    · exact .inr (.inr (.inr (.inr (.inl ⟨by omega, hd.trans e⟩))))
    · simp [hd.trans e, h']
  | 4 => rw [h] at hd; rcases hN 4 _ (by decide) h hd with h' | h' <;> simp_all
  | 5 => rw [h] at hd; rcases hN 5 _ (by decide) h hd with h' | h' <;> simp_all
  | 6 => rw [h] at hd; rcases hN 6 _ (by decide) h hd with h' | h' <;> simp_all
  | n + 7 => rw [h] at hd; simp [hd]

end Sys2Proof
end

