-- ==== Sys2Proof/Laws/Parser.lean ====
section
/-! SUPPORT. The readings of the Response Parser and PARSE past check 2, as equations. -/

namespace Sys2Proof.Machine

@[simp] theorem readingsOf_length (p : Params) (start : Half) (n : Nat) (f : Nat → Byte) :
    (readingsOf p start n f).length = n / 2 := by simp [readingsOf]

theorem readingsOf_getElem? (p : Params) (start : Half) (n : Nat) (f : Nat → Byte) (k : Nat) (h : k < n / 2) :
    (readingsOf p start n f)[k]? = some (readingOf p start k (f (3 + 2 * k)) (f (4 + 2 * k))) := by
  simp [readingsOf, h]

theorem State.byteCount_lt (s : State) : s.byteCount < 256 := (s.memRead .byteCount .rx 2).isLt

/-- A sequence of readings changes RD alone. -/
theorem State.writeRdSeq_frame (s : State) (k : Nat) (rs : List Reading) :
    s.writeRdSeq k rs = { s with rd := (s.writeRdSeq k rs).rd } := by
  induction rs generalizing s k with
  | nil => rfl
  | cons r rs ih =>
    show (s.writeRd k r).writeRdSeq (k + 1) rs = _
    rw [ih]; rfl

theorem crcMatches_eq (c : Half) (lo hi : Byte) :
    crcMatches c lo hi = decide (c.extractLsb' 0 8 = lo ∧ c.extractLsb' 8 8 = hi) := by
  unfold crcMatches; rw [Bool.decide_and]; rfl

/-- VERIFY over existing locations, as an equation. -/
theorem verifyFrame_of_le (p : Params) (b : Buf) (n : Nat) (s : State) (h : n ≤ Buf.size p b) :
    verifyFrame p b n s =
      if n < 2 then .next { s with crcOk := false }
      else .next { s with
        acc := checksum (s.slice .frame b 0 (n - 2))
        crcOk := crcMatches (checksum (s.slice .frame b 0 (n - 2)))
          (s.memRead .frame b (n - 2)) (s.memRead .frame b (n - 1)) } := by
  unfold verifyFrame; rw [withinBuffer_of_le _ h]

/-- PARSE past checks 1 and 2. -/
theorem parseCmd_of_declared (p : Params) (s : State) (h5 : 5 ≤ s.rlen.toNat) (hr : s.rlen.toNat ≤ p.rxSize)
    (hn : 3 + s.byteCount + 2 ≤ s.rlen.toNat) : parseCmd p s = parseDeclared p s.byteCount s := by
  unfold parseCmd; simp only []; rw [if_neg (by omega), withinBuffer_of_le _ hr, if_neg (by omega)]

/-- What follows check 2, over the state with the checksum compared. -/
theorem parseDeclared_eq (p : Params) (n : Nat) (s : State) :
    parseDeclared p n s =
      (if p.strictCrc && !(s.checkedResponse n).crcOk then (s.checkedResponse n).noReadings.raise .crcMismatch
      else if n % 2 = 1 then (s.checkedResponse n).noReadings.raise .oddByteCount
      else .next { (s.checkedResponse n).writeRdSeq 0 (readingsOf p s.addr n (s.memRead .data .rx)) with
        rdcnt := BitVec.ofNat 7 (n / 2), rdv := true }) := rfl

/-- `parse_response` past checks 1 and 2. -/
theorem parseResponse_of_declared (p : Params) (raw : List Byte) (start : Half) (n : Nat)
    (hn : n = (raw.getD 2 0).toNat) (h5 : 5 ≤ raw.length) (h : 3 + n + 2 ≤ raw.length) :
    parseResponse p raw start =
      if p.strictCrc && !respCrcOk raw n then .error .crcMismatch
      else if n % 2 = 1 then .error .oddByteCount
      else .ok (readingsOf p start n fun i => raw.getD i 0) := by
  unfold parseResponse; rw [if_neg (by omega)]; simp only []; rw [← hn, if_neg (by omega)]

end Sys2Proof.Machine
end

