-- ==== Sys2Proof/Laws/PerInstr.lean ====
section
/-! SUPPORT. One statement per command, as syntax: its word is in its row of spec/opcode_table.json. -/

namespace Sys2Proof.Laws.EncodesTableRow

open Sys2Proof

/-- The mask of the command's row (30_encoding R93). -/
def rowMask : Instr → Command
  | .nop => 0xFFFF
  | .crcinit => 0xFFFF
  | .crcupd _ => 0xFF00
  | .verify _ => 0xFFFE
  | .build => 0xFFFF
  | .parse => 0xFFFF
  | .clrf => 0xFFFF

/-- The match value of the command's row (30_encoding R93). -/
def rowMatch : Instr → Command
  | .nop => 0x0000
  | .crcinit => 0x0100
  | .crcupd _ => 0x0200
  | .verify _ => 0x0300
  | .build => 0x0400
  | .parse => 0x0500
  | .clrf => 0x0600

/-- The command's word is a word of its row. -/
def Statement (i : Instr) : Prop := encode i &&& rowMask i = rowMatch i

theorem nop : Statement .nop := rfl
theorem crcinit : Statement .crcinit := rfl
theorem crcupd (b : Byte) : Statement (.crcupd b) := by
  have h : ∀ b : Byte, (0x0200 + b.setWidth 16 : Command) &&& 0xFF00 = 0x0200 := by decide
  exact h b
theorem verify (sel : Sel) : Statement (.verify sel) := by cases sel <;> rfl
theorem build : Statement .build := rfl
theorem parse : Statement .parse := rfl
theorem clrf : Statement .clrf := rfl

end Sys2Proof.Laws.EncodesTableRow
end

