-- ==== Sys2Proof/Laws/Port.lean ====
section
/-! SUPPORT. The host port said by cases: the address map by numbers, one step per kind of transaction, what a store
keeps, and which transactions are refused. -/

namespace Sys2Proof.Machine

/-! ### The address map -/

theorem regAt_some (n : Nat) (r : Reg) (h : regAt n = some r) : n = Reg.index r := by
  unfold regAt at h
  split at h <;> first | (injection h with h; subst h; rfl) | cases h

theorem regAt_none (n : Nat) (h : regAt n = none) : 12 ≤ n := by
  by_contra hn
  have : n = 0 ∨ n = 1 ∨ n = 2 ∨ n = 3 ∨ n = 4 ∨ n = 5 ∨ n = 6 ∨ n = 7 ∨ n = 8 ∨ n = 9 ∨ n = 10 ∨ n = 11 := by omega
  rcases this with h' | h' | h' | h' | h' | h' | h' | h' | h' | h' | h' | h' <;> (subst h'; cases h)

/-- The address map of this hardware, by numbers (20_memory R60). -/
theorem place_cases (a : Index) :
    (∃ r, place Config.params a = .reg r ∧ a.toNat = Reg.index r) ∨
    (place Config.params a = .byte .pay (a.toNat - 0x400) ∧ 0x400 ≤ a.toNat ∧ a.toNat < 0x7F8) ∨
    (place Config.params a = .byte .tx (a.toNat - 0x800) ∧ 0x800 ≤ a.toNat ∧ a.toNat < 0xC00) ∨
    (place Config.params a = .byte .rx (a.toNat - 0xC00) ∧ 0xC00 ≤ a.toNat ∧ a.toNat < 0x1000) ∨
    (place Config.params a = .rdAddress ((a.toNat - 0x1000) / 2) ∧ 0x1000 ≤ a.toNat ∧ a.toNat < 0x10FE ∧ a.toNat % 2 = 0) ∨
    (place Config.params a = .rdValue ((a.toNat - 0x1000) / 2) ∧ 0x1000 ≤ a.toNat ∧ a.toNat < 0x10FE ∧ a.toNat % 2 = 1) ∨
    (place Config.params a = .reserved ∧ reservedIndex a.toNat) := by
  have hlt := a.isLt
  unfold place
  cases hr : regAt a.toNat with
  | some r => left; exact ⟨r, by simp, regAt_some _ _ hr⟩
  | none =>
    right
    have h12 := regAt_none _ hr
    have b1 : Buf.base .pay = 0x400 := rfl
    have b2 : Buf.base .tx = 0x800 := rfl
    have b3 : Buf.base .rx = 0xC00 := rfl
    have z1 : Buf.size Config.params .pay = 1016 := rfl
    have z2 : Buf.size Config.params .tx = 1024 := rfl
    have z3 : Buf.size Config.params .rx = 1024 := rfl
    have z4 : rdMax = 127 := rfl
    unfold bufferAt readingAt reservedIndex
    by_cases h1 : Buf.base .pay ≤ a.toNat ∧ a.toNat < Buf.base .pay + Buf.size Config.params .pay
    · left; rw [if_pos h1]; exact ⟨rfl, by omega⟩
    · right; rw [if_neg h1]
      by_cases h2 : Buf.base .tx ≤ a.toNat ∧ a.toNat < Buf.base .tx + Buf.size Config.params .tx
      · left; rw [if_pos h2]; exact ⟨rfl, by omega⟩
      · right; rw [if_neg h2]
        by_cases h3 : Buf.base .rx ≤ a.toNat ∧ a.toNat < Buf.base .rx + Buf.size Config.params .rx
        · left; rw [if_pos h3]; exact ⟨rfl, by omega⟩
        · right; rw [if_neg h3]
          by_cases h4 : 0x1000 ≤ a.toNat ∧ a.toNat < 0x1000 + 2 * rdMax
          · rw [if_pos h4]
            by_cases h5 : a.toNat % 2 = 0
            · left; rw [if_pos h5]; exact ⟨rfl, by omega⟩
            · right; left; rw [if_neg h5]; exact ⟨rfl, by omega⟩
          · right; right; rw [if_neg h4]; exact ⟨rfl, by omega⟩

theorem index_eq_ofNat (a : Index) (k : Nat) (hk : k < 8192) : a = BitVec.ofNat 13 k ↔ a.toNat = k :=
  ⟨fun h => by rw [h]; simp; omega, fun h => BitVec.eq_of_toNat_eq (by simp; omega)⟩

theorem fits_iff (w : Nat) (d : Data) : fits w d = true ↔ d.toNat < 2 ^ w := by simp [fits]

/-! ### One step per kind of transaction -/

theorem step_cons {s : State} {x : Txn} {rest : List Txn} (h : s.script = x :: rest) :
    step s = transact x (s.popped rest) := by unfold step; rw [h]

/-- An accepted write to CMD issues its word. -/
theorem step_cmd {s : State} {d : Data} {rest : List Txn} (h : s.script = .write 0 d :: rest) (hd : d.toNat < 2^16) :
    step s = issue (d.setWidth 16) ((s.popped rest).answered .writeDone) := by
  rw [step_cons h]
  show hostWrite Config.params 0 d (s.popped rest) = _
  unfold hostWrite
  have : place Config.params 0 = .reg .cmd := rfl
  rw [this]
  simp only [(fits_iff 16 d).2 hd, if_true]

theorem hostWrite_other {a : Index} (ha : a ≠ 0) (d : Data) (s : State) :
    hostWrite Config.params a d s = .next (s.storeAt Config.params (place Config.params a) d) := by
  unfold hostWrite
  rcases place_cases a with ⟨r,h,hr⟩|⟨h,_⟩|⟨h,_⟩|⟨h,_⟩|⟨h,_⟩|⟨h,_⟩|⟨h,_⟩ <;> rw [h]
  case inl =>
    cases r
    case cmd => exact absurd ((index_eq_ofNat a 0 (by decide)).2 hr) ha
    all_goals rfl

/-- A write elsewhere stores. -/
theorem step_write {s : State} {a : Index} {d : Data} {rest : List Txn} (h : s.script = .write a d :: rest) (ha : a ≠ 0) :
    step s = .next ((s.popped rest).storeAt Config.params (place Config.params a) d) := by
  rw [step_cons h]; exact hostWrite_other ha d _

/-- A read answers. -/
theorem step_read {s : State} {a : Index} {rest : List Txn} (h : s.script = .read a :: rest) :
    step s = .next ((s.popped rest).answered (match (s.popped rest).placeRead (place Config.params a) with | some d => .readData d | none => .readRejected 0)) := by
  rw [step_cons h]; unfold transact hostRead
  show (match (s.popped rest).placeRead (place Config.params a) with | some d => _ | none => _) = _
  split <;> rfl

theorem run_succ (M : Host.Core) (n : Nat) (s t : M.State) (h : M.step s = .next t) : M.run (n + 1) s = M.run n t := by
  rw [Host.Core.run.eq_def]; simp only [h]

/-- A run of n + 1 steps takes one step and runs on. -/
theorem runs_succ {n : Nat} {s t : State} (h : step s = .next t) : runs (n + 1) s = runs n t :=
  run_succ Sys2Proof.core n s t h

/-! ### What a store keeps -/

theorem placeWrite_keeps {p : Params} {s t : State} {l : Place} {d : Data} (h : s.placeWrite p l d = some t) :
    t.err = s.err ∧ t.acc = s.acc ∧ t.script = s.script ∧ t.freeCtr = s.freeCtr := by
  unfold State.placeWrite at h
  split at h
  · rename_i r
    unfold State.regWrite at h
    cases r <;> simp only at h <;> (try split at h) <;> cases h <;> simp
  · split at h <;> cases h; simp
  · split at h <;> cases h; simp
  all_goals cases h

theorem storeAt_keeps (p : Params) (s : State) (l : Place) (d : Data) :
   (s.storeAt p l d).err = s.err ∧ (s.storeAt p l d).acc = s.acc ∧ (s.storeAt p l d).script = s.script ∧ (s.storeAt p l d).freeCtr = s.freeCtr := by
  unfold State.storeAt
  split
  · rename_i h; simpa using placeWrite_keeps h
  · simp

theorem placeWrite_err (p : Params) (s : State) (e : BitVec 3) (l : Place) (d : Data) :
    State.placeWrite p { s with err := e } l d = (s.placeWrite p l d).map (fun t => { t with err := e }) := by
  unfold State.placeWrite
  split
  · rename_i r
    unfold State.regWrite
    cases r <;> simp only <;> (try split) <;> rfl
  · split <;> rfl
  · split <;> rfl
  all_goals rfl

/-- No store reads ERR. -/
theorem storeAt_err (p : Params) (s : State) (e : BitVec 3) (l : Place) (d : Data) :
    State.storeAt p { s with err := e } l d = { s.storeAt p l d with err := e } := by
  unfold State.storeAt
  rw [placeWrite_err]
  cases s.placeWrite p l d <;> rfl

/-! ### What the commands keep -/

/-- No command writes an operand register, RLEN or the host's side. -/
theorem exec_keeps {i : Instr} {s t : State} (h : exec i s = .next t) : t.script = s.script ∧ t.answer = s.answer ∧ t.freeCtr = s.freeCtr ∧ t.unit = s.unit ∧ t.func = s.func ∧ t.addr = s.addr ∧ t.count = s.count ∧ t.plen = s.plen ∧ t.rlen = s.rlen := by
  cases i with
  | nop => rcases State.unlessFailed_next h with ⟨_,rfl⟩|⟨_,h⟩; · simp
           injection h with h; subst h; simp
  | crcinit => rcases State.unlessFailed_next h with ⟨_,rfl⟩|⟨_,h⟩; · simp
               injection h with h; subst h; simp
  | crcupd b => rcases State.unlessFailed_next h with ⟨_,rfl⟩|⟨_,h⟩; · simp
                injection h with h; subst h; simp
  | verify sel => 
    rcases State.unlessFailed_next h with ⟨_,rfl⟩|⟨_,h⟩; · simp
    rcases verifyFrame_next h with ⟨_,rfl⟩|⟨_,_,rfl⟩ <;> simp
  | build =>
    rcases State.unlessFailed_next h with ⟨_,rfl⟩|⟨_,h⟩; · simp
    rcases buildCmd_next h with ⟨_,rfl⟩|⟨_,_,rfl⟩
    · simp
    · rw [State.buildFrame_eq]; simp
  | parse =>
    rcases State.unlessFailed_next h with ⟨_,rfl⟩|⟨_,h⟩; · simp
    rcases parseCmd_next h with ⟨_,rfl⟩|⟨_,_,_,rfl⟩|⟨_,_,h⟩
    · simp
    · simp
    · rcases parseDeclared_next h with ⟨_,_,rfl⟩|⟨_,_,rfl⟩|⟨_,_,rfl⟩ <;> simp [State.checkedResponse]
  | clrf => injection h with h; subst h; simp

theorem valueWord_toNat (r : Reading) : r.valueWord.toNat = 65536 * r.signed.toNat + r.raw.toNat := by
  have h1 := r.signed.isLt
  have h2 := r.raw.isLt
  unfold Reading.valueWord
  rw [BitVec.toNat_or, BitVec.toNat_shiftLeft]
  simp only [BitVec.toNat_setWidth]
  rw [Nat.mod_eq_of_lt (by omega : r.signed.toNat < 2^32), Nat.mod_eq_of_lt (by omega : r.raw.toNat < 2^32), Nat.mod_eq_of_lt (by rw [Nat.shiftLeft_eq]; omega)]
  rw [← Nat.shiftLeft_add_eq_or_of_lt h2, Nat.shiftLeft_eq]; omega

end Sys2Proof.Machine
end

