-- ==== Sys2Proof/Tests/Slice0.lean ====
section
/-! SUPPORT. Tests of the model against spec/95_test_vectors.md and the rules' worked examples (test_…), and a concrete
input for the hypotheses of every statement that has some, at the boundaries of its clauses (witness_…). -/

namespace Sys2Proof.Tests

open Sys2Proof Sys2Proof.Machine

/-! ### Small states -/

/-- A value of the next state. -/
def got {α : Type} (f : State → α) : Result → Option α
  | .next t => some (f t)
  | .fault _ => none
  | .refused _ => none

/-- The state with one transaction to come. -/
def asked (s : State) (x : Txn) : State := { s with script := [x] }

/-- After Reset, LDRX of the bytes and WR ADDR. -/
def received (bs : List Byte) (a : Half) : State :=
  { State.reset.memWriteSeq .rx 0 bs with rlen := BitVec.ofNat 11 bs.length, addr := a }

/-- After Reset, SETREQ and LDPAY. -/
def requested (u f : Byte) (a c : Half) (p : List Byte) : State :=
  { State.reset.memWriteSeq .pay 0 p with unit := u, func := f, addr := a, count := c, plen := BitVec.ofNat 10 p.length }

/-- A Failed state, cause 1. -/
def failed : State := { State.reset with err := 1, acc := 0x1234 }

/-- The source's response example S5, completed (V4.1). -/
def response : List Byte := [0x01, 0x03, 0x04, 0x00, 0x0A, 0x80, 0x00, 0xBB, 0xF1]

/-- STRICT_CRC true (V4.10). -/
def strict : Params := { Config.params with strictCrc := true }

/-! ### Well-formedness: an ill-formed term for each check -/

theorem test_wf_refuses_ldpay_beyond_pay : (Pseudo.ldpay (List.replicate 1017 0)).wf Config.params = false := by
  decide +kernel
theorem test_wf_refuses_ldrx_beyond_rx : (Pseudo.ldrx (List.replicate 1025 0)).wf Config.params = false := by
  decide +kernel
theorem test_wf_refuses_pay_size : Params.wf { Config.params with paySize := 1017 } = false := rfl
theorem test_wf_refuses_rx_size : Params.wf { Config.params with rxSize := 1025 } = false := rfl
theorem test_wf_accepts_this_hardware : Params.wf Config.params = true := rfl
theorem test_wf_refuses_write_index : Stmt.wf (.wrAt .rd 0x1000 0) = false := by decide
theorem test_wf_refuses_read_index : Stmt.wf (.rdAt .rx 0x1400) = false := by decide
theorem test_wf_refuses_reading_address : Stmt.wf (.rdA 0x800) = false := by decide
theorem test_wf_refuses_reading_value : Stmt.wf (.rdV 0x800) = false := by decide
theorem test_wf_accepts_last_index : Stmt.wf (.rdV 0x7FF) = true := by decide

/-! ### Decoding: words written out from 30_encoding R93, and illegal words of R94 -/

theorem test_decode_nop : decode 0b0000000000000000#16 = .ok .nop := by decide
theorem test_decode_crcinit : decode 0b0000000100000000#16 = .ok .crcinit := by decide
theorem test_decode_crcupd : decode 0b0000001011111111#16 = .ok (.crcupd 0xFF) := by decide
theorem test_decode_verify_tx : decode 0b0000001100000000#16 = .ok (.verify .tx) := by decide
theorem test_decode_verify_rx : decode 0b0000001100000001#16 = .ok (.verify .rx) := by decide
theorem test_decode_build : decode 0b0000010000000000#16 = .ok .build := by decide
theorem test_decode_parse : decode 0b0000010100000000#16 = .ok .parse := by decide
theorem test_decode_clrf : decode 0b0000011000000000#16 = .ok .clrf := by decide
theorem test_decode_refuses_op_07 : decode 0x0700 = .error (.reservedOpcode 0x07) := by decide
theorem test_decode_refuses_build_immediate : decode 0x0401 = .error (.nonzeroImmediate 0x04 0x01) := by decide
theorem test_decode_refuses_verify_selector : decode 0x0302 = .error (.badSelector 0x02) := by decide
theorem test_encode_crcupd : encode (.crcupd 0x56) = 0b0000001001010110#16 := by decide
theorem test_table_word : decodeTableWord 16 0x0301 = some (.verify .rx) := by decide

/-! ### The checksum (V1), the bytes of a frame, the readings' values -/

/-- V1.2 -/
theorem test_checksum_request : checksum [0x01, 0x03, 0x00, 0x00, 0x00, 0x01] = 0x0A84 := by decide +kernel
/-- V1.6 -/
theorem test_checksum_check_value :
    checksum [0x31, 0x32, 0x33, 0x34, 0x35, 0x36, 0x37, 0x38, 0x39] = 0x4B37 := by decide +kernel
/-- 40_crc R129 -/
theorem test_le16 : le16 0x0A84 = [0x84, 0x0A] := by decide
/-- 20_memory R64, V3.4 -/
theorem test_be16 : be16 0x1234 = [0x12, 0x34] := by decide
/-- V2.10: big-endian checksum bytes are wrong. -/
theorem test_frame_check_order : frameOk [0x01, 0x03, 0x00, 0x00, 0x00, 0x01, 0x0A, 0x84] = false := by decide +kernel
/-- The source's S8. -/
theorem test_signed_quirk : signedValue false 0x8000 = -32767 ∧ signed16 false 0x8000 = 0x8001 := by decide
/-- V4.18 -/
theorem test_signed_fixed : signedValue true 0x8000 = -32768 ∧ signed16 true 0x8000 = 0x8000 := by decide
/-- 42_response_parser R179 -/
theorem test_hex4 : hex4 false 0x000A = ['0', '0', '0', 'a'] ∧ hex4 true 0xFFFE = ['F', 'F', 'F', 'E'] := by decide

/-! ### The commands, at most two tests each -/

/-- 43_control R200 -/
theorem test_nop : got id (exec .nop failed) = some failed := by decide
/-- V2.2 -/
theorem test_crcinit : got State.acc (exec .crcinit { State.reset with acc := 0x0A84 }) = some 0xFFFF := by decide
/-- V2.3 -/
theorem test_crcupd : got State.acc (exec (.crcupd 0x56) { State.reset with acc := 0x1234 }) = some 0xE993 := by
  decide +kernel
/-- V2.4 -/
theorem test_crcupd_failed : got State.acc (exec (.crcupd 0x56) failed) = some 0x1234 := by decide
/-- V2.11: VERIFY takes the last two of all nine bytes. -/
theorem test_verify_trailing_bytes :
    got (fun t => (t.crcOk, t.acc))
      (exec (.verify .rx) (received [0x01, 0x03, 0x02, 0x12, 0x34, 0xB5, 0x33, 0xDE, 0xAD] 0)) = some (false, 0x0000) := by
  decide +kernel
/-- V2.12 -/
theorem test_verify_no_frame :
    got (fun t => (t.crcOk, t.acc)) (exec (.verify .tx) State.reset) = some (false, 0xFFFF) := by decide
/-- V3.5 -/
theorem test_build_payload :
    got (fun t => (t.mem.map Prod.snd, t.tlen, t.acc)) (exec .build (requested 0x01 0x10 0x0010 0x0001 [0x02, 0xAB, 0xCD])) =
      some ([0x02, 0xAB, 0xCD, 0x01, 0x10, 0x00, 0x10, 0x00, 0x01, 0x02, 0xAB, 0xCD, 0x1A, 0x65], 11, 0x651A) := by
  decide +kernel
/-- V3.8 -/
theorem test_build_count_zero :
    got (fun t => (t.err, t.tlen, t.acc)) (exec .build { requested 0x01 0x03 0x0010 0x0000 [] with tlen := 8 }) =
      some (1, 0, 0xFFFF) := by decide
/-- V4.11: addresses pass 16 bits. -/
theorem test_parse_addresses :
    got (fun t => (t.err, t.rdcnt, t.rd))
      (exec .parse (received [0x01, 0x03, 0x06, 0x00, 0x01, 0xFF, 0xFF, 0x7F, 0xFF, 0x7C, 0xE1] 65535)) =
      some (0, 3, [(0, ⟨65535, 0x0001, 1⟩), (1, ⟨65536, 0xFFFF, 0⟩), (2, ⟨65537, 0x7FFF, 0x7FFF⟩)]) := by decide +kernel
/-- V4.7: the checksum is compared before the odd byte count is refused. -/
theorem test_parse_odd_byte_count :
    got (fun t => (t.err, t.crcOk, t.acc, t.rdv)) (exec .parse (received [0x01, 0x03, 0x01, 0x55, 0x30, 0x77] 0)) =
      some (4, true, 0x7730, false) := by decide +kernel
/-- V5.9 -/
theorem test_clrf : got State.err (exec .clrf failed) = some 0 := by decide

/-! ### The host port (V5, V6), one transaction each -/

/-- V5.1 -/
theorem test_port_illegal_word : got State.err (step (asked State.reset (.write 0 0x0700))) = some 6 := by decide
/-- V5.8 -/
theorem test_port_not_clrf : got State.err (step (asked failed (.write 0 0x0601))) = some 1 := by decide
/-- V5.5 -/
theorem test_port_upper_half :
    got (fun t => (t.acc, t.answer)) (step (asked { State.reset with acc := 1 } (.write 0 0x00010100))) =
      some (1, .writeRejected) := by decide
/-- V6.4 -/
theorem test_port_plen : got State.plen (step (asked State.reset (.write 8 1016))) = some 1016 := by decide
/-- V6.5 -/
theorem test_port_plen_too_long :
    got (fun t => (t.plen, t.answer)) (step (asked State.reset (.write 8 1017))) = some (0, .writeRejected) := by decide
/-- V6.10 -/
theorem test_port_buffer_byte :
    got (fun t => (t.mem, t.answer)) (step (asked State.reset (.write 0x0C00 0x1FF))) = some ([], .writeRejected) := by
  decide
/-- V6.13 -/
theorem test_port_status :
    got State.answer (step (asked { State.reset with rdv := true, crcOk := true } (.read 1))) =
      some (.readData 0x00000006) := by decide
/-- V4.1's second reading on the port. -/
theorem test_port_reading :
    got State.answer (step (asked { State.reset with rd := [(1, ⟨6, 0x8000, 0x8001⟩)] } (.read 0x1003))) =
      some (.readData 0x80018000) := by decide
/-- V6.15, V6.16 -/
theorem test_port_reserved :
    got State.answer (step (asked State.reset (.read 0x07F8))) = some (.readRejected 0) ∧
    got State.answer (step (asked State.reset (.read 0x10FE))) = some (.readRejected 0) := by decide
/-- The first instruction after reset. -/
theorem test_fetch_word : got State.acc (step (State.reset.withFetchWord 16 0x0201)) = some 0x807E := by decide +kernel

/-! ### Witnesses: encoding -/

theorem witness_DecodeOfEncodeIsTheCommand : Instr.wf (.crcupd 0xFF) = true ∧ Instr.wf (.verify .rx) = true := by decide
theorem witness_EncodeOfDecodeIsTheWord : decode 0x02FF = .ok (.crcupd 0xFF) ∧ decode 0x0301 = .ok (.verify .rx) := by decide
theorem witness_IllegalWordsAreTheThreeClasses_reserved :
    0x07 ≤ (0x0700#16).toNat / 256 ∧ 0x07 ≤ (0xFFFF#16).toNat / 256 := by decide
theorem witness_IllegalWordsAreTheThreeClasses_immediate :
    (0x0001#16).toNat / 256 ∈ [0x00, 0x01, 0x04, 0x05, 0x06] ∧ (0x0001#16).toNat % 256 ≠ 0 ∧
    (0x06FF#16).toNat / 256 ∈ [0x00, 0x01, 0x04, 0x05, 0x06] ∧ (0x06FF#16).toNat % 256 ≠ 0 := by decide
theorem witness_IllegalWordsAreTheThreeClasses_selector :
    (0x0302#16).toNat / 256 = 0x03 ∧ 2 ≤ (0x0302#16).toNat % 256 ∧
    (0x03FF#16).toNat / 256 = 0x03 ∧ 2 ≤ (0x03FF#16).toNat % 256 := by decide

/-! ### Witnesses: a step -/

theorem witness_StepRunsTheDecodedCommand_script :
    (asked State.reset (.write 0 0x0301)).script = .write 0 0x0301 :: [] ∧ (0x0301 : Data).toNat < 2 ^ 16 ∧
    decode ((0x0301 : Data).setWidth 16) = .ok (.verify .rx) ∧ Instr.wf (.verify .rx) = true := by decide
theorem witness_StepRunsTheDecodedCommand_fetch :
    0x0600 < 2 ^ 16 ∧ decode (BitVec.ofNat 16 0x0600) = .ok .clrf ∧ Instr.wf .clrf = true := by decide
theorem witness_StepRunsTheDecodedCommand_idle : State.reset.script = [] := rfl
theorem witness_CommandDispatchIsTheDecodeTable :
    (asked failed (.write 0 0xFFFF)).script = .write 0 0xFFFF :: [] ∧ (0xFFFF : Data).toNat < 2 ^ 16 ∧
    (asked State.reset (.write 0 0)).script = .write 0 0 :: [] ∧ (0 : Data).toNat < 2 ^ 16 := by decide
theorem witness_IllegalCommandChangesOnlyErr :
    (asked State.reset (.write 0 0x0302)).script = .write 0 0x0302 :: [] ∧ (0x0302 : Data).toNat < 2 ^ 16 ∧
    (0x0302 : Command) = (0x0302 : Data).setWidth 16 ∧ State.reset.err = 0 ∧
    (0x0302 : Command) &&& 0xFFFF ∉ [0x0000, 0x0100, 0x0400, 0x0500, 0x0600] ∧
    (0x0302 : Command) &&& 0xFF00 ≠ 0x0200 ∧ (0x0302 : Command) &&& 0xFFFE ≠ 0x0300 := by decide
theorem witness_IllegalCommandChangesOnlyErr_ends :
    ([0x0001, 0x01FF, 0x0401, 0x0601, 0x0700, 0xFFFF] : List Command).all (fun w =>
      decide (w &&& 0xFFFF ∉ [0x0000, 0x0100, 0x0400, 0x0500, 0x0600] ∧ w &&& 0xFF00 ≠ 0x0200 ∧ w &&& 0xFFFE ≠ 0x0300)) =
      true := by decide
theorem witness_FailedStateHoldsOffOnlyCommands :
    failed.err ≠ 0 ∧ Instr.parse ≠ .clrf ∧ (asked failed (.write 0 0x0601)).script = .write 0 0x0601 :: [] ∧
    (0x0601 : Data).toNat < 2 ^ 16 ∧ (0x0601 : Data).toNat ≠ 0x0600 := by decide
theorem witness_FailedStateHoldsOffOnlyCommands_port :
    (asked failed (.write 6 0x0010)).script = .write 6 0x0010 :: [] ∧ (6 : Index) ≠ 0 ∧
    (asked failed (.read 3)).script = .read 3 :: [] ∧ (3 : Index) ≠ 1 ∧ (3 : Index) ≠ 2 ∧
    (asked failed (.read 1)).script = .read 1 :: [] ∧ (asked failed (.read 2)).script = .read 2 :: [] := by decide
theorem witness_FailedStateIsLeftByClrfOrReset :
    (asked failed (.write 0 0x0600)).script = .write 0 0x0600 :: [] ∧ (asked failed .reset).script = .reset :: [] := by decide
theorem witness_FailedStateIsLeftByClrfOrReset_stays :
    (asked failed (.write 0 0x0601)).script = .write 0 0x0601 :: [] ∧ (asked failed (.write 0 0x0601)).err ≠ 0 ∧
    (∃ t, step (asked failed (.write 0 0x0601)) = .next t) ∧ Txn.write 0 0x0601 ≠ .write 0 0x0600 ∧
    Txn.write 0 0x0601 ≠ .reset := ⟨rfl, by decide, ⟨_, rfl⟩, by decide, by decide⟩

/-! ### Witnesses: the host port -/

theorem witness_CmdWriteWithUpperHalfIsABusError :
    (asked State.reset (.write 0 0x00010000)).script = .write 0 0x00010000 :: [] ∧ 2 ^ 16 ≤ (0x00010000 : Data).toNat := by
  decide
theorem witness_HostWriteEffect_script :
    (asked State.reset (.write 4 0xFF)).script = .write 4 0xFF :: [] := rfl
/-- The first and last reserved indices, the read-only places, and each field one above its largest value. -/
theorem witness_HostWriteEffect_rejected :
    rejectsWrite 0x000C 0 ∧ rejectsWrite 0x03FF 0 ∧ rejectsWrite 0x07F8 0 ∧ rejectsWrite 0x07FF 0 ∧ rejectsWrite 0x10FE 0 ∧
    rejectsWrite 0x1FFF 0 ∧ rejectsWrite 0x01 0 ∧ rejectsWrite 0x02 0 ∧ rejectsWrite 0x03 0 ∧ rejectsWrite 0x09 0 ∧
    rejectsWrite 0x0B 0 ∧ rejectsWrite 0x0800 0 ∧ rejectsWrite 0x0BFF 0 ∧ rejectsWrite 0x1000 0 ∧ rejectsWrite 0x10FD 0 ∧
    rejectsWrite 0x00 0x10000 ∧ rejectsWrite 0x04 0x100 ∧ rejectsWrite 0x05 0x100 ∧ rejectsWrite 0x06 0x10000 ∧
    rejectsWrite 0x07 0x10000 ∧ rejectsWrite 0x08 1017 ∧ rejectsWrite 0x0A 1025 ∧ rejectsWrite 0x0400 0x100 ∧
    rejectsWrite 0x0FFF 0x100 := by
  unfold rejectsWrite reservedIndex readOnlyIndex; omega
/-- Each writable register at its largest value, and the ends of PAY and RX. -/
theorem witness_HostWriteEffect_accepted :
    ¬ rejectsWrite 0x00 0xFFFF ∧ ¬ rejectsWrite 0x04 0xFF ∧ ¬ rejectsWrite 0x05 0xFF ∧ ¬ rejectsWrite 0x06 0xFFFF ∧
    ¬ rejectsWrite 0x07 0xFFFF ∧ ¬ rejectsWrite 0x08 1016 ∧ ¬ rejectsWrite 0x0A 1024 ∧ ¬ rejectsWrite 0x0400 0xFF ∧
    ¬ rejectsWrite 0x07F7 0xFF ∧ ¬ rejectsWrite 0x0C00 0xFF ∧ ¬ rejectsWrite 0x0FFF 0xFF := by
  unfold rejectsWrite reservedIndex readOnlyIndex; omega
theorem witness_HostReadReturns_script : (asked State.reset (.read 0x0B)).script = .read 0x0B :: [] := rfl
theorem witness_HostReadReturns_reserved :
    reservedIndex 0x000C ∧ reservedIndex 0x03FF ∧ reservedIndex 0x07F8 ∧ reservedIndex 0x07FF ∧ reservedIndex 0x10FE ∧
    reservedIndex 0x1FFF ∧ ¬ reservedIndex 0x000B ∧ ¬ reservedIndex 0x0400 ∧ ¬ reservedIndex 0x07F7 ∧
    ¬ reservedIndex 0x0800 ∧ ¬ reservedIndex 0x0FFF ∧ ¬ reservedIndex 0x1000 ∧ ¬ reservedIndex 0x10FD := by
  unfold reservedIndex; omega
theorem witness_HostReadReturns_places :
    0x0400 ≤ (0x07F7 : Index).toNat ∧ (0x07F7 : Index).toNat < 0x1000 ∧ 0x0400 ≤ (0x0FFF : Index).toNat ∧
    (0x0FFF : Index).toNat < 0x1000 ∧ 0x1000 ≤ (0x1000 : Index).toNat ∧ (0x10FD : Index).toNat < 0x10FE := by decide
theorem witness_BusErrorsAreExactlyTheListed :
    rejects (.write 0x0800 0) ∧ rejects (.read 0x07F8) ∧ ¬ rejects (.read 0x0800) ∧ ¬ rejects .reset := by
  refine ⟨?_, ?_, ?_, id⟩ <;> simp [rejects, rejectsWrite, reservedIndex, readOnlyIndex]
theorem witness_BusErrorsAreExactlyTheListed_step :
    (asked State.reset (.read 0x0800)).script = .read 0x0800 :: [] ∧
    ∃ t, step (asked State.reset (.read 0x0800)) = .next t := ⟨rfl, _, rfl⟩
theorem witness_WrittenByteReadsBack :
    ({ State.reset with script := [.write 0x07F7 0xFF, .read 0x07F7] } : State).script =
      .write 0x07F7 0xFF :: .read 0x07F7 :: [] ∧
    (0x0400 ≤ (0x07F7 : Index).toNat ∧ (0x07F7 : Index).toNat < 0x07F8) ∧
    (0x0C00 ≤ (0x0FFF : Index).toNat ∧ (0x0FFF : Index).toNat < 0x1000) ∧ (0xFF : Data).toNat < 2 ^ 8 := by decide
theorem witness_ResetWorksInEveryState : (asked failed .reset).script = .reset :: [] := rfl

/-! ### Witnesses: the checksum and its commands -/

theorem witness_FrameCheckComparesTheLastTwoBytes : ([0xFF] : List Byte).length < 2 ∧ ([] : List Byte).length < 2 := by decide
/-- A stream with a NOP, a read and a register write between its bytes. -/
theorem witness_StreamingLaw :
    State.reset.err = 0 ∧
    ∀ x ∈ [Txn.write 0 0x0201, .write 0 0, .read 3, .write 4 0x11, .write 0 0x02FF], (streamed x).isSome = true := by decide
theorem witness_StreamingLaw_script :
    ({ State.reset with script := .write 0 0x0100 :: ([.write 0 0x0201] ++ []) } : State).script =
      .write 0 0x0100 :: ([.write 0 0x0201] ++ []) ∧
    ({ failed with script := .reset :: ([] ++ [.read 3]) } : State).script = .reset :: ([] ++ [.read 3]) := by decide
theorem witness_NopChangesNothing : (0x01 : Byte) ≠ 0 ∧ (0xFF : Byte) ≠ 0 := by decide
theorem witness_ClrfClearsOnlyErr : (0x01 : Byte) ≠ 0 ∧ (0xFF : Byte) ≠ 0 := by decide
theorem witness_CrcinitSetsAcc : State.reset.err = 0 ∧ failed.err ≠ 0 ∧ (0x01 : Byte) ≠ 0 := by decide
theorem witness_CrcupdStepsAcc : State.reset.err = 0 ∧ failed.err ≠ 0 := by decide
theorem witness_VerifyComparesTheFrame_tx :
    ({ State.reset with tlen := 1024 } : State).err = 0 ∧
    ((Buf.tx, 1024) : Buf × Nat) = (Buf.tx, ({ State.reset with tlen := 1024 } : State).tlen.toNat) ∧ 1024 ≤ 1024 ∧
    2 ≤ 1024 := by decide
theorem witness_VerifyComparesTheFrame_rx :
    (received [0xFF, 0xFF] 0).err = 0 ∧ ((Buf.rx, 2) : Buf × Nat) = (Buf.rx, (received [0xFF, 0xFF] 0).rlen.toNat) ∧
    2 ≤ 1024 ∧ 2 ≤ 2 := by decide
theorem witness_VerifyComparesTheFrame_short :
    (received [0xFF] 0).err = 0 ∧ ((Buf.rx, 1) : Buf × Nat) = (Buf.rx, (received [0xFF] 0).rlen.toNat) ∧ 1 ≤ 1024 ∧
    1 < 2 := by decide
theorem witness_VerifyComparesTheFrame_others : failed.err ≠ 0 ∧ 2 ≤ (2 : Byte).toNat ∧ 2 ≤ (0xFF : Byte).toNat := by decide

/-! ### Witnesses: BUILD -/

theorem witness_BuildAssemblesTheFrame_longest :
    ({ requested 0xFF 0x03 0xFFFF 0xFFFF [] with plen := 1016 } : State).err = 0 ∧
    ({ requested 0xFF 0x03 0xFFFF 0xFFFF [] with plen := 1016 } : State).count ≠ 0 ∧
    ({ requested 0xFF 0x03 0xFFFF 0xFFFF [] with plen := 1016 } : State).plen.toNat ≤ 1016 := by decide
theorem witness_BuildAssemblesTheFrame_shortest :
    (requested 0x01 0x03 0 1 []).err = 0 ∧ (requested 0x01 0x03 0 1 []).count ≠ 0 ∧
    (requested 0x01 0x03 0 1 []).plen.toNat ≤ 1016 := by decide
theorem witness_BuildAssemblesTheFrame_others :
    State.reset.err = 0 ∧ State.reset.count = 0 ∧ failed.err ≠ 0 ∧ (0x01 : Byte) ≠ 0 := by decide
theorem witness_BuildWithCountZeroIsInvalidArgument :
    State.reset.err = 0 ∧ State.reset.count = 0 ∧ ∃ t, exec .build State.reset = .next t ∧ t.err = 1 :=
  ⟨rfl, rfl, _, rfl, rfl⟩
theorem witness_BuiltFrameLengthAndChecksum : (0x0001 : Half) ≠ 0 ∧ (0xFFFF : Half) ≠ 0 := by decide
/-- V3.1 -/
theorem witness_RequestFrameLayout :
    (buildRequest 0x01 0x03 0x0000 0x0001 []).toOption = some [0x01, 0x03, 0x00, 0x00, 0x00, 0x01, 0x84, 0x0A] := by
  decide +kernel
theorem witness_BuildRequestFailsOnlyOnCountZero : (0 : Half) = 0 ∧ (1 : Half) ≠ 0 := by decide
theorem witness_VerifyAfterBuildSucceeds :
    (requested 0x01 0x03 0x0005 0x0002 []).err = 0 ∧ (requested 0x01 0x03 0x0005 0x0002 []).count ≠ 0 ∧
    (requested 0x01 0x03 0x0005 0x0002 []).plen.toNat ≤ 1016 := by decide

/-! ### Witnesses: PARSE -/

theorem witness_ParseShortHeaderIsTruncated :
    (received [0x01, 0x03, 0x00, 0x00] 0).err = 0 ∧ (received [0x01, 0x03, 0x00, 0x00] 0).rlen.toNat < 5 ∧
    State.reset.rlen.toNat < 5 := by decide
/-- V4.5, one byte short, and V4.17, the longest. -/
theorem witness_ParseShortDataIsTruncated :
    (received (response.take 8) 5).err = 0 ∧ 5 ≤ (received (response.take 8) 5).rlen.toNat ∧
    (received (response.take 8) 5).rlen.toNat ≤ 1024 ∧
    (received (response.take 8) 5).rlen.toNat < 3 + (received (response.take 8) 5).byteCount + 2 ∧
    ({ received [0x01, 0x03, 0xFF] 0 with rlen := 259 } : State).rlen.toNat <
      3 + ({ received [0x01, 0x03, 0xFF] 0 with rlen := 259 } : State).byteCount + 2 := by decide
/-- V4.10 -/
theorem witness_ParseCrcMismatchOnlyWhenStrict :
    let s := received [0x01, 0x03, 0x04, 0x00, 0x0A, 0x80, 0x00, 0xBB, 0xF0] 5
    strict.strictCrc = true ∧ s.err = 0 ∧ s.rlen.toNat ≤ strict.rxSize ∧ 4 = s.byteCount ∧ 5 ≤ s.rlen.toNat ∧
    3 + 4 + 2 ≤ s.rlen.toNat ∧ (0xF1BB : Half) = checksum (s.slice .checksum .rx 0 (3 + 4)) ∧
    ¬ ((0xF1BB : Half).extractLsb' 0 8 = s.memRead .checksum .rx (3 + 4) ∧
      (0xF1BB : Half).extractLsb' 8 8 = s.memRead .checksum .rx (4 + 4)) := by decide +kernel
theorem witness_ParseCrcMismatchOnlyWhenStrict_others : State.reset.err = 0 ∧ ∃ t, exec .parse State.reset = .next t :=
  ⟨rfl, _, rfl⟩
/-- V4.7, with STRICT_CRC true and false. -/
theorem witness_ParseOddByteCountIsRefused :
    let s := received [0x01, 0x03, 0x01, 0x55, 0x30, 0x77] 0
    s.err = 0 ∧ s.rlen.toNat ≤ strict.rxSize ∧ s.rlen.toNat ≤ Config.params.rxSize ∧ 1 = s.byteCount ∧ 5 ≤ s.rlen.toNat ∧
    3 + 1 + 2 ≤ s.rlen.toNat ∧ (0x7730 : Half) = checksum (s.slice .checksum .rx 0 (3 + 1)) ∧
    true = decide ((0x7730 : Half).extractLsb' 0 8 = s.memRead .checksum .rx (3 + 1)
      ∧ (0x7730 : Half).extractLsb' 8 8 = s.memRead .checksum .rx (4 + 1)) ∧ 1 % 2 = 1 := by decide +kernel
/-- V4.1 -/
theorem witness_ParseDecodesTheReadings :
    let s := received response 5
    s.err = 0 ∧ s.rlen.toNat ≤ 1024 ∧ 4 = s.byteCount ∧ 5 ≤ s.rlen.toNat ∧ 3 + 4 + 2 ≤ s.rlen.toNat ∧ 4 % 2 = 0 ∧
    (0xF1BB : Half) = checksum (s.slice .checksum .rx 0 (3 + 4)) := by decide +kernel
/-- The fewest and the most readings (V4.4, V4.15). -/
theorem witness_ParseDecodesTheReadings_ends :
    let s := received [0x01, 0x03, 0x00, 0x20, 0xF0] 0
    let u : State := { received [0x01, 0x03, 0xFE] 65535 with rlen := 259 }
    s.err = 0 ∧ 0 = s.byteCount ∧ 5 ≤ s.rlen.toNat ∧ u.err = 0 ∧ 254 = u.byteCount ∧ 3 + 254 + 2 ≤ u.rlen.toNat ∧
    u.rlen.toNat ≤ 1024 := by decide +kernel
theorem witness_ParseRefinesParseResponse :
    (received response 5).err = 0 ∧ (received response 5).rlen.toNat ≤ strict.rxSize ∧
    response.length = (received response 5).rlen.toNat ∧
    ∀ i, i < response.length → (received response 5).written .rx i = response[i]? := by decide +kernel
theorem witness_ParseChecksInOrder_short : ([0x01, 0x03, 0x00, 0x00] : List Byte).length < 5 := by decide
theorem witness_ParseChecksInOrder_declared :
    5 ≤ (response.take 8).length ∧ 4 = ((response.take 8).getD 2 0).toNat ∧ (response.take 8).length < 3 + 4 + 2 := by decide
theorem witness_ParseChecksInOrder_mismatch :
    let raw : List Byte := [0x01, 0x03, 0x00, 0x20, 0xF1]
    5 ≤ raw.length ∧ 0 = (raw.getD 2 0).toNat ∧ 3 + 0 + 2 ≤ raw.length ∧ strict.strictCrc = true ∧
    (checksum (raw.take (3 + 0))).toNat ≠ 256 * (raw.getD (4 + 0) 0).toNat + (raw.getD (3 + 0) 0).toNat := by decide +kernel
theorem witness_ParseChecksInOrder_odd :
    let raw : List Byte := [0x01, 0x03, 0x01, 0x55, 0x30, 0x77]
    5 ≤ raw.length ∧ 1 = (raw.getD 2 0).toNat ∧ 3 + 1 + 2 ≤ raw.length ∧ 1 % 2 = 1 ∧
    (checksum (raw.take (3 + 1))).toNat = 256 * (raw.getD (4 + 1) 0).toNat + (raw.getD (3 + 1) 0).toNat := by decide +kernel
theorem witness_ParseChecksInOrder_success :
    5 ≤ response.length ∧ 4 = (response.getD 2 0).toNat ∧ 3 + 4 + 2 ≤ response.length ∧ 4 % 2 = 0 ∧
    (checksum (response.take (3 + 4))).toNat =
      256 * (response.getD (4 + 4) 0).toNat + (response.getD (3 + 4) 0).toNat := by decide +kernel
theorem witness_BytesBeyondTheDeclaredEndAreIgnored :
    5 ≤ response.length ∧ response.length = 3 + (response.getD 2 0).toNat + 2 := by decide
theorem witness_ByteCountZeroIsAccepted :
    let raw : List Byte := [0x01, 0x03, 0x00, 0x20, 0xF0]
    5 ≤ raw.length ∧ raw.getD 2 0 = 0 ∧
    (checksum (raw.take 3)).toNat = 256 * (raw.getD 4 0).toNat + (raw.getD 3 0).toNat := by decide +kernel
theorem witness_ParserIgnoresUnitAndFunction : Config.params.strictCrc = false := rfl

/-! ### Witnesses: rules over all commands and all transactions -/

theorem witness_CommandsWriteOnlyTheirOwnState :
    (∃ t, exec .crcinit State.reset = .next t) ∧ Instr.crcinit ≠ .build ∧ Instr.crcinit ≠ .parse ∧ 0x07FF < 0x0800 ∧
    0x0C00 ≤ 0x0C00 := ⟨⟨_, rfl⟩, by decide, by decide, by decide, by decide⟩
theorem witness_RdvSaysParseSucceeded :
    State.reset.err = 0 ∧ (∃ t, exec .parse State.reset = .next t) ∧ Instr.nop ≠ .parse ∧
    ∃ t, exec .nop State.reset = .next t := ⟨rfl, ⟨_, rfl⟩, by decide, _, rfl⟩
theorem witness_CrcOkWritersAndReaders :
    Instr.crcinit ≠ .parse ∧ (∀ sel, Instr.crcinit ≠ .verify sel) ∧ ∃ t, exec .crcinit State.reset = .next t :=
  ⟨by decide, by intro sel; cases sel <;> decide, _, rfl⟩
theorem witness_AccChangesOnlyByItsCommands :
    (asked { State.reset with acc := 0 } (.write 0 0x0100)).script = .write 0 0x0100 :: [] ∧
    ∃ t, step (asked { State.reset with acc := 0 } (.write 0 0x0100)) = .next t ∧ t.acc ≠ 0 :=
  ⟨rfl, _, rfl, by decide⟩

/-- The state after reset, with one command to come, meets the invariants. -/
theorem reset_inv : Inv Config.params (asked State.reset (.write 0 0x0500)) ∧
    Inv Config.params { State.reset with count := 1 } := by
  constructor <;>
  exact {
    plen_le := by decide
    rlen_le := by decide
    tlen_range := .inl rfl
    rdcnt_le := by decide
    err_used := by decide
    err_strict := by decide
    faulted_iff := by decide
    tx_written := fun i hi => absurd hi (Nat.not_lt_zero i)
    rd_written := nofun
    mem_wf := rfl
    mem_mapped := nofun
    rd_wf := rfl
    rd_mapped := nofun }

/-- A state with a response loaded meets them. -/
theorem received_inv : Inv Config.params (received [0x01, 0x03, 0x00, 0x20, 0xF0] 0) where
  plen_le := by decide
  rlen_le := by decide
  tlen_range := .inl rfl
  rdcnt_le := by decide
  err_used := by decide
  err_strict := by decide
  faulted_iff := by decide
  tx_written := fun i hi => absurd hi (Nat.not_lt_zero i)
  rd_written := nofun
  mem_wf := by decide
  mem_mapped := fun c hc => ⟨.rx, by revert c; decide⟩
  rd_wf := rfl
  rd_mapped := nofun

theorem witness_RepeatedCommandsAreIdempotent_parse :
    let s := received [0x01, 0x03, 0x00, 0x20, 0xF0] 0
    Inv Config.params s ∧ (∀ j, j < s.plen.toNat → (s.written .pay j).isSome = true) ∧
    (∀ j, j < s.rlen.toNat → (s.written .rx j).isSome = true) ∧ got State.err (exec .parse s) = some 0 ∧
    got State.err (exec (.verify .rx) s) = some 0 :=
  ⟨received_inv, by decide, by decide, by decide +kernel, by decide +kernel⟩
theorem witness_RepeatedCommandsAreIdempotent_build :
    let s : State := { State.reset with count := 1 }
    Inv Config.params s ∧ (∀ j, j < s.plen.toNat → (s.written .pay j).isSome = true) ∧
    (∀ j, j < s.rlen.toNat → (s.written .rx j).isSome = true) ∧ got State.err (exec .build s) = some 0 :=
  ⟨reset_inv.2, by decide, by decide, by decide +kernel⟩
theorem witness_EveryStepKeepsTheInvariants :
    Inv Config.params (asked State.reset (.write 0 0x0500)) ∧
    ∃ t, step (asked State.reset (.write 0 0x0500)) = .next t := ⟨reset_inv.1, _, rfl⟩
theorem witness_EveryTransactionCompletes : Inv Config.params (asked State.reset (.write 0 0x0500)) := reset_inv.1
theorem witness_CanonicalMemoriesAreEqual :
    Memory.wf [(0x0400, 0x12), (0x0C00, 0x34)] = true ∧ Memory.wf State.reset.mem = true := by decide

/-! ### Witnesses: the host script -/

theorem witness_ScriptStatementsEncode :
    Stmt.txn (.wr .rdcnt 1) = .write 0x000B 1 ∧ Stmt.txn (.wrAt .rd 253 1) = .write 0x10FD 1 := by decide
theorem witness_LoadPseudoInstructionsLoad_ldpay :
    (Pseudo.ldpay (List.replicate 1016 0)).wf Config.params = true ∧
    ({ State.reset with script := Pseudo.txns (.ldpay [0x02]) ++ [] } : State).script = Pseudo.txns (.ldpay [0x02]) ++ [] := by
  decide +kernel
theorem witness_LoadPseudoInstructionsLoad_ldrx :
    (Pseudo.ldrx (List.replicate 1024 0)).wf Config.params = true ∧
    ({ State.reset with script := Pseudo.txns (.ldrx [0x01]) ++ [] } : State).script = Pseudo.txns (.ldrx [0x01]) ++ [] := by
  decide +kernel
theorem witness_LoadPseudoInstructionsLoad_setreq :
    ({ State.reset with script := Pseudo.txns (.setreq 1 3 5 2) ++ [] } : State).script =
      Pseudo.txns (.setreq 1 3 5 2) ++ [] := rfl

end Sys2Proof.Tests
end

/-! ## Proofs of the family 10_state -/

namespace Sys2Proof.Machine

/-! ### No command reads CRC_OK or RDV (10_state R40, R41) -/

/-- The state with the two stored STATUS flags replaced. -/
def State.withFlags (s : State) (c r : Bool) : State := { s with crcOk := c, rdv := r }

theorem State.memWriteSeq_withFlags (s : State) (c r : Bool) (b : Buf) (i : Nat) (vs : List Byte) :
    (s.withFlags c r).memWriteSeq b i vs = (s.memWriteSeq b i vs).withFlags c r := by
  induction vs generalizing s i with
  | nil => rfl
  | cons v vs ih => exact ih (s.memWrite b i v) (i + 1)

theorem State.writeRdSeq_withFlags (s : State) (c r : Bool) (k : Nat) (rs : List Reading) :
    (s.withFlags c r).writeRdSeq k rs = (s.writeRdSeq k rs).withFlags c r := by
  induction rs generalizing s k with
  | nil => rfl
  | cons v rs ih => exact ih (s.writeRd k v) (k + 1)

theorem State.buildFrame_withFlags (s : State) (c r : Bool) :
    (s.withFlags c r).buildFrame = s.buildFrame.withFlags c r := by
  have hbody : (s.withFlags c r).requestBody = s.requestBody := rfl
  rw [State.buildFrame_eq, State.buildFrame_eq, hbody, State.memWriteSeq_withFlags]
  rfl

/-- `k` is what a command answers in `s` and `k'` what it answers in `s.withFlags c r`: where `k` is a next state, `k'`
is the same one but for the flags, and a flag that had the same value before the command has the same value after it. -/
def FlagsUnread (s : State) (c r : Bool) (k k' : Result) : Prop :=
  ∀ t, k = .next t → ∃ c' r', k' = .next (t.withFlags c' r') ∧
    (c = s.crcOk → c' = t.crcOk) ∧ (r = s.rdv → r' = t.rdv)

namespace FlagsUnread

variable {s t : State} {c r c' r' : Bool} {k k' : Result}

theorem next (hc : c = s.crcOk → c' = t.crcOk) (hr : r = s.rdv → r' = t.rdv) :
    FlagsUnread s c r (.next t) (.next (t.withFlags c' r')) := by
  intro t' h
  injection h with h
  subst h
  exact ⟨c', r', rfl, hc, hr⟩

theorem unlessFailed (h : FlagsUnread s c r k k') :
    FlagsUnread s c r (s.unlessFailed k) ((s.withFlags c r).unlessFailed k') := by
  by_cases he : s.err = 0
  · rwa [State.unlessFailed_of_ok k he, State.unlessFailed_of_ok (s := s.withFlags c r) k' he]
  · rw [State.unlessFailed_of_failed k he, State.unlessFailed_of_failed (s := s.withFlags c r) k' he]
    exact next id id

theorem withinBuffer {p : Params} {b : Buf} {n : Nat} (h : FlagsUnread s c r k k') :
    FlagsUnread s c r (withinBuffer p b n k) (withinBuffer p b n k') := by
  intro t ht
  obtain ⟨hn, ht⟩ := withinBuffer_next ht
  rw [withinBuffer_of_le k' hn]
  exact h t ht

theorem ite {p : Prop} [Decidable p] {l l' : Result} (hk : FlagsUnread s c r k k') (hl : FlagsUnread s c r l l') :
    FlagsUnread s c r (if p then k else l) (if p then k' else l') := by
  split
  · exact hk
  · exact hl

end FlagsUnread

/-- Both branches of VERIFY write CRC_OK and keep RDV. -/
theorem verifyFrame_flagsUnread (p : Params) (b : Buf) (n : Nat) (s : State) (c r : Bool) :
    FlagsUnread s c r (verifyFrame p b n s) (verifyFrame p b n (s.withFlags c r)) :=
  .ite (.next (fun _ => rfl) id) (.withinBuffer (.next (fun _ => rfl) id))

/-- Both branches of BUILD keep both flags. -/
theorem buildCmd_flagsUnread (p : Params) (s : State) (c r : Bool) :
    FlagsUnread s c r (buildCmd p s) (buildCmd p (s.withFlags c r)) := by
  have hframe : FlagsUnread s c r (.next s.buildFrame) (.next (s.withFlags c r).buildFrame) := by
    rw [State.buildFrame_withFlags]
    exact .next (by simp [State.buildFrame_eq]) (by simp [State.buildFrame_eq])
  exact .ite (.next id id) (.withinBuffer hframe)

/-- Every branch of PARSE past check 2 writes both flags; what CRC_OK takes is computed from RX alone. -/
theorem parseDeclared_flagsUnread (p : Params) (n : Nat) (s : State) (c r : Bool) :
    FlagsUnread s c r (parseDeclared p n s) (parseDeclared p n (s.withFlags c r)) := by
  have hreadings : ∀ rs : List Reading, FlagsUnread s c r
      (.next { (s.checkedResponse n).writeRdSeq 0 rs with rdcnt := BitVec.ofNat 7 (n / 2), rdv := true })
      (.next { ((s.withFlags c r).checkedResponse n).writeRdSeq 0 rs with
        rdcnt := BitVec.ofNat 7 (n / 2), rdv := true }) := by
    intro rs
    have hchecked : (s.withFlags c r).checkedResponse n =
        (s.checkedResponse n).withFlags (s.checkedResponse n).crcOk r := rfl
    rw [hchecked, State.writeRdSeq_withFlags]
    exact .next (fun _ => (State.writeRdSeq_crcOk (s.checkedResponse n) 0 rs).symm) (fun _ => rfl)
  rw [parseDeclared_eq, parseDeclared_eq]
  exact .ite (.next (fun _ => rfl) (fun _ => rfl)) (.ite (.next (fun _ => rfl) (fun _ => rfl)) (hreadings _))

theorem parseCmd_flagsUnread (p : Params) (s : State) (c r : Bool) :
    FlagsUnread s c r (parseCmd p s) (parseCmd p (s.withFlags c r)) :=
  .ite (.next (fun _ => rfl) (fun _ => rfl)) <| .withinBuffer <|
    .ite (.next (fun _ => rfl) (fun _ => rfl)) (parseDeclared_flagsUnread p s.byteCount s c r)

/-- 10_state R40 and R41: no command reads CRC_OK or RDV. -/
theorem exec_flagsUnread (i : Instr) (s : State) (c r : Bool) :
    FlagsUnread s c r (exec i s) (exec i (s.withFlags c r)) := by
  cases i with
  | nop => exact .unlessFailed (.next id id)
  | crcinit => exact .unlessFailed (.next id id)
  | crcupd b => exact .unlessFailed (.next id id)
  | verify sel => cases sel <;> exact .unlessFailed (verifyFrame_flagsUnread Config.params _ _ s c r)
  | build => exact .unlessFailed (buildCmd_flagsUnread Config.params s c r)
  | parse => exact .unlessFailed (parseCmd_flagsUnread Config.params s c r)
  | clrf => exact .next id id

/-! ### What the commands write to RDV (10_state R41) -/

theorem parseDeclared_rdv_iff {p : Params} {n : Nat} {s t : State} (he : s.err = 0)
    (h : parseDeclared p n s = .next t) : t.rdv = true ↔ t.err = 0 := by
  obtain ⟨_, _, rfl⟩ | ⟨_, _, rfl⟩ | ⟨_, _, rfl⟩ := parseDeclared_next h
  · simp [Cause.code]
  · simp [Cause.code]
  · simp [State.checkedResponse, he]

/-- A PARSE that runs leaves RDV = 1 when it succeeds and 0 when it raises a fault. -/
theorem parseCmd_rdv_iff {p : Params} {s t : State} (he : s.err = 0) (h : parseCmd p s = .next t) :
    t.rdv = true ↔ t.err = 0 := by
  obtain ⟨_, rfl⟩ | ⟨_, _, _, rfl⟩ | ⟨_, _, h⟩ := parseCmd_next h
  · simp [Cause.code]
  · simp [Cause.code]
  · exact parseDeclared_rdv_iff he h

/-- A command that keeps RDV when it runs keeps it when it is discarded too. -/
theorem unlessFailed_rdv {s t : State} {k : Result} (hk : ∀ t, k = .next t → t.rdv = s.rdv)
    (h : s.unlessFailed k = .next t) : t.rdv = s.rdv := by
  obtain ⟨_, rfl⟩ | ⟨_, h⟩ := State.unlessFailed_next h
  · rfl
  · exact hk t h

/-- No command but PARSE writes RDV. -/
theorem exec_rdv_of_ne_parse {i : Instr} {s t : State} (hi : i ≠ .parse) (h : exec i s = .next t) :
    t.rdv = s.rdv := by
  cases i with
  | nop => refine unlessFailed_rdv (fun t h => ?_) h; cases h; rfl
  | crcinit => refine unlessFailed_rdv (fun t h => ?_) h; cases h; rfl
  | crcupd b => refine unlessFailed_rdv (fun t h => ?_) h; cases h; rfl
  | verify sel =>
    refine unlessFailed_rdv (fun t h => ?_) h
    obtain ⟨_, rfl⟩ | ⟨_, _, rfl⟩ := verifyFrame_next h <;> rfl
  | build =>
    refine unlessFailed_rdv (fun t h => ?_) h
    obtain ⟨_, rfl⟩ | ⟨_, _, rfl⟩ := buildCmd_next h
    · rfl
    · rw [State.buildFrame_eq]
  | parse => exact absurd rfl hi
  | clrf => cases h; rfl

/-! ### The obligations -/

/-- Settles O50: PARSE by its outcomes, the other commands by what each can do, and the flags as no command's input. -/
theorem rdvSaysParseSucceeded : Obligations.RdvSaysParseSucceeded := by
  refine ⟨fun s t he h => ?_, fun i s t hi h => exec_rdv_of_ne_parse hi h, fun i s t b h => ?_, rfl⟩
  · obtain ⟨hne, _⟩ | ⟨_, hcmd⟩ := State.unlessFailed_next h
    · exact absurd he hne
    · exact parseCmd_rdv_iff he hcmd
  · obtain ⟨c', r', hu, hc, _⟩ := exec_flagsUnread i s s.crcOk b t h
    obtain rfl := hc rfl
    exact ⟨_, hu, rfl⟩

/-- Settles O17: each register's reset value is its field of `State.reset`, and both memories list nothing. -/
theorem resetValues : Obligations.ResetValues :=
  ⟨rfl, rfl, rfl, rfl, rfl, rfl, rfl, rfl, rfl, rfl, rfl, rfl, rfl, rfl, fun _ _ => rfl, fun _ => rfl⟩

end Sys2Proof.Machine

/-! ## Proofs of the family 20_memory -/

namespace Sys2Proof.Machine

/-! ### Which transactions a place takes (20_memory R63, 10_state R46) -/

/-- A register other than CMD takes no write (20_memory R63), or one in its width and bound (10_state R46). -/
theorem State.regWrite_eq_none_iff (s : State) {r : Reg} (hr : r ≠ .cmd) (d : Data) :
    s.regWrite Config.params r d = none ↔ rejectsWrite (Reg.index r) d.toNat := by
  unfold rejectsWrite reservedIndex readOnlyIndex
  cases r with
  | cmd => exact absurd rfl hr
  | status | err | acc | tlen | rdcnt => simp [State.regWrite, Reg.index]
  | unit | func | addr | count => simp [State.regWrite, fits, Reg.index]
  | plen =>
    have hmax : Config.params.paySize = 1016 := rfl
    simp [State.regWrite, fits, Reg.index]; omega
  | rlen =>
    have hmax : Config.params.rxSize = 1024 := rfl
    simp [State.regWrite, fits, Reg.index]; omega

/-- A location of PAY or RX takes a byte. -/
theorem State.placeWrite_byte_eq_none_iff (s : State) {b : Buf} (hb : b = .pay ∨ b = .rx) (i : Nat) (d : Data) :
    s.placeWrite Config.params (.byte b i) d = none ↔ 2 ^ 8 ≤ d.toNat := by
  obtain rfl | rfl := hb <;> simp [State.placeWrite, fits]

theorem Reg.index_lt (r : Reg) : Reg.index r < 12 := by cases r <;> decide

/-- The place at a word index other than that of CMD rejects exactly the listed writes. -/
theorem State.placeWrite_eq_none_iff (s : State) {a : Index} (ha : a ≠ 0) (d : Data) :
    s.placeWrite Config.params (place Config.params a) d = none ↔ rejectsWrite a.toNat d.toNat := by
  have hreadOnly (h : readOnlyIndex a.toNat) : rejectsWrite a.toNat d.toNat := .inr (.inl h)
  unfold readOnlyIndex at hreadOnly
  obtain ⟨r, hp, hr⟩ | ⟨hp, hl, hu⟩ | ⟨hp, hl, hu⟩ | ⟨hp, hl, hu⟩ | ⟨hp, hl, hu, _⟩ | ⟨hp, hl, hu, _⟩ | ⟨hp, hres⟩ :=
    place_cases a <;> rw [hp]
  · have hcmd : r ≠ .cmd := fun h => ha ((index_eq_ofNat a 0 (by decide)).2 (by rw [hr, h]; rfl))
    rw [hr]
    exact s.regWrite_eq_none_iff hcmd d
  · rw [s.placeWrite_byte_eq_none_iff (.inl rfl)]
    unfold rejectsWrite reservedIndex readOnlyIndex; omega
  · exact iff_of_true rfl (hreadOnly (by omega))
  · rw [s.placeWrite_byte_eq_none_iff (.inr rfl)]
    unfold rejectsWrite reservedIndex readOnlyIndex; omega
  · exact iff_of_true rfl (hreadOnly (by omega))
  · exact iff_of_true rfl (hreadOnly (by omega))
  · exact iff_of_true rfl (.inl hres)

/-- Above the registers, only the locations of PAY and RX take a write. -/
theorem place_eq_byte_of_accepted {a : Index} {d : Data} (ha : 0x0400 ≤ a.toNat)
    (hacc : ¬ rejectsWrite a.toNat d.toNat) :
    ∃ b i, (b = .pay ∨ b = .rx) ∧ place Config.params a = .byte b i ∧ Buf.base b + i = a.toNat := by
  have hmap : ¬ reservedIndex a.toNat ∧ ¬ readOnlyIndex a.toNat := ⟨fun h => hacc (.inl h), fun h => hacc (.inr (.inl h))⟩
  unfold readOnlyIndex at hmap
  obtain ⟨r, _, hr⟩ | ⟨hp, hl, _⟩ | ⟨_, hl, hu⟩ | ⟨hp, hl, _⟩ | ⟨_, hl, hu, _⟩ | ⟨_, hl, hu, _⟩ | ⟨_, hres⟩ :=
    place_cases a
  · have hlt := Reg.index_lt r; omega
  · exact ⟨.pay, _, .inl rfl, hp, by simp only [Buf.base]; omega⟩
  · omega
  · exact ⟨.rx, _, .inr rfl, hp, by simp only [Buf.base]; omega⟩
  · omega
  · omega
  · exact absurd hres hmap.1

/-- A read is rejected at exactly the word indices that hold nothing. -/
theorem State.placeRead_eq_none_iff (s : State) (a : Index) :
    s.placeRead (place Config.params a) = none ↔ reservedIndex a.toNat := by
  obtain ⟨r, hp, hr⟩ | ⟨hp, hl, hu⟩ | ⟨hp, hl, hu⟩ | ⟨hp, hl, hu⟩ | ⟨hp, hl, hu, _⟩ | ⟨hp, hl, hu, _⟩ | ⟨hp, hres⟩ :=
    place_cases a <;> rw [hp]
  case inl =>
    have hlt := Reg.index_lt r
    exact iff_of_false nofun (by unfold reservedIndex; omega)
  case inr.inr.inr.inr.inr.inr => exact iff_of_true rfl hres
  all_goals exact iff_of_false nofun (by unfold reservedIndex; omega)

/-- With the word index of CMD, the data above 16 bits are the rejected ones. -/
theorem rejectsWrite_zero_iff (d : Nat) : rejectsWrite 0 d ↔ 2 ^ 16 ≤ d := by
  unfold rejectsWrite reservedIndex readOnlyIndex; omega

/-! ### The outcomes of a transaction (20_memory R61, R62, R63) -/

section
variable {s : State} {a : Index} {d : Data} {rest : List Txn}

/-- A listed write is a bus error: the port's answer, and no state of the block changed. -/
theorem step_write_rejected (h : s.script = .write a d :: rest) (hrej : rejectsWrite a.toNat d.toNat) :
    step s = .next ((s.popped rest).answered .writeRejected) := by
  by_cases ha : a = 0
  · subst ha
    have hfits : ¬ fits 16 d = true := by rw [fits_iff, Nat.not_lt]; exact (rejectsWrite_zero_iff _).1 hrej
    rw [step_cons h]
    exact if_neg hfits
  · rw [step_write h ha, State.storeAt, (State.placeWrite_eq_none_iff _ ha d).2 hrej]

/-- Any other write to CMD issues its low 16 bits. -/
theorem step_cmd_accepted (h : s.script = .write 0 d :: rest) (hacc : ¬ rejectsWrite 0 d.toNat) :
    step s = issue (d.setWidth 16) ((s.popped rest).answered .writeDone) :=
  step_cmd h (by rw [rejectsWrite_zero_iff] at hacc; omega)

/-- Any other write to a word index other than that of CMD makes the place's write. -/
theorem step_write_accepted (h : s.script = .write a d :: rest) (ha : a ≠ 0)
    (hacc : ¬ rejectsWrite a.toNat d.toNat) :
    ∃ t, (s.popped rest).placeWrite Config.params (place Config.params a) d = some t ∧
      step s = .next (t.answered .writeDone) := by
  obtain ⟨t, ht⟩ := Option.ne_none_iff_exists'.1 (mt (State.placeWrite_eq_none_iff (s.popped rest) ha d).1 hacc)
  exact ⟨t, ht, by rw [step_write h ha, State.storeAt, ht]⟩

/-- Where a place's write is `v` under a check, any other write than a listed one passes the check and makes `v`. -/
theorem step_write_of_check {c : Bool} {v : State} (h : s.script = .write a d :: rest) (ha : a ≠ 0)
    (hacc : ¬ rejectsWrite a.toNat d.toNat)
    (hv : (s.popped rest).placeWrite Config.params (place Config.params a) d = if c then some v else none) :
    step s = .next (v.answered .writeDone) := by
  obtain ⟨t, ht, hstep⟩ := step_write_accepted h ha hacc
  rw [hv] at ht
  obtain ⟨_, hvt⟩ := Option.ite_none_right_eq_some.1 ht
  cases hvt
  exact hstep

/-- An accepted write above the registers stores its low byte at its word index. -/
theorem step_write_byte (h : s.script = .write a d :: rest) (ha : 0x0400 ≤ a.toNat)
    (hacc : ¬ rejectsWrite a.toNat d.toNat) :
    step s = .next { (s.popped rest).answered .writeDone with mem := Sparse.set s.mem a.toNat (d.setWidth 8) } := by
  obtain ⟨b, i, hb, hp, hi⟩ := place_eq_byte_of_accepted ha hacc
  have hne : a ≠ 0 := by rintro rfl; simp at ha
  have hw : (s.popped rest).placeWrite Config.params (place Config.params a) d =
      if fits 8 d then some ((s.popped rest).memWrite b i (d.setWidth 8)) else none := by
    rw [hp]; obtain rfl | rfl := hb <;> rfl
  rw [step_write_of_check h hne hacc hw, ← hi]
  rfl

end

/-- Issuing a command word leaves the port's answer. -/
theorem issue_answer {w : Command} {s t : State} (h : issue w s = .next t) : t.answer = s.answer := by
  obtain ⟨i, _, hexec⟩ | ⟨e, _, ⟨_, rfl⟩ | ⟨_, rfl⟩⟩ := issue_next h
  · obtain ⟨_, hanswer, _⟩ := exec_keeps hexec
    exact hanswer
  · rfl
  · rfl

/-- A write that is not a listed one is answered as done. -/
theorem step_write_accepted_answer {s t : State} {a : Index} {d : Data} {rest : List Txn}
    (h : s.script = .write a d :: rest) (hacc : ¬ rejectsWrite a.toNat d.toNat) (hstep : step s = .next t) :
    t.answer = .writeDone := by
  by_cases ha : a = 0
  · subst ha
    rw [step_cmd_accepted h hacc] at hstep
    exact issue_answer hstep
  · obtain ⟨t', _, hstep'⟩ := step_write_accepted h ha hacc
    cases hstep.symm.trans hstep'
    rfl

/-! ### The obligations -/

/-- Settles O12: the listed writes are those the place at the word index rejects, and an accepted one makes the place's
own write. -/
theorem hostWriteEffect : Obligations.HostWriteEffect := by
  rintro s _ a d rest h rfl
  have hlow {w : Nat} (hw : w ≤ 32) : d.extractLsb' 0 w = d.setWidth w := (BitVec.setWidth_eq_extractLsb' hw).symm
  simp (disch := decide) only [hlow]
  refine ⟨step_write_rejected h, fun hacc => ⟨?cmd, ?unit, ?func, ?addr, ?count, ?plen, ?rlen, ?byte⟩⟩
  case cmd => rintro rfl; exact step_cmd_accepted h hacc
  case byte =>
    intro ha
    exact ⟨_, step_write_byte h ha hacc, rfl, Sparse.get_set_self _ _ _, fun k hk => Sparse.get_set_ne _ _ hk.symm⟩
  all_goals rintro rfl; exact step_write_of_check h (by decide) hacc rfl

/-- Settles O14: by the kind of transaction; what rejects a write or a read is the place at its word index, and a
command leaves the answer its write to CMD got. -/
theorem busErrorsAreExactlyTheListed : Obligations.BusErrorsAreExactlyTheListed := by
  intro s x rest h
  cases x with
  | write a d =>
    refine ⟨fun hrej => ⟨step_write_rejected h hrej, rfl⟩, fun hacc t hstep => ?_⟩
    rw [step_write_accepted_answer h hacc hstep]
    rfl
  | read a =>
    have hnone := (s.popped rest).placeRead_eq_none_iff a
    refine ⟨fun hrej => ⟨?_, rfl⟩, fun hacc t hstep => ?_⟩
    · rw [step_read h, hnone.2 hrej]; rfl
    · obtain ⟨v, hv⟩ := Option.ne_none_iff_exists'.1 (mt hnone.1 hacc)
      rw [step_read h, hv] at hstep
      cases hstep
      rfl
  | reset =>
    refine ⟨False.elim, fun _ t hstep => ?_⟩
    rw [step_cons h] at hstep
    cases hstep
    rfl

end Sys2Proof.Machine

/-! ## Proofs of the family 30_encoding -/

namespace Sys2Proof

/-! ### The words of the opcode table (30_encoding R93) -/

/-- A legal word is the word of its command. -/
theorem encode_of_decode {w : Command} {i : Instr} (h : decode w = .ok i) : encode i = w := by
  obtain ⟨hw, hd⟩ | ⟨hw, hd⟩ | ⟨hw, hd⟩ | ⟨hw, hd⟩ | ⟨hw, hd⟩ | ⟨hw, hd⟩ | ⟨hw, hd⟩ | ⟨hw, hd⟩ |
    ⟨_, hd⟩ | ⟨_, _, hd⟩ | ⟨_, _, hd⟩ := decode_cases w <;> cases h.symm.trans hd
  case inr.inr.inl =>
    have himm := toNat_immOf w
    have hop : (0x0200 : Command).toNat = 512 := rfl
    apply BitVec.eq_of_toNat_eq
    simp only [encode, BitVec.toNat_add, BitVec.toNat_setWidth]
    omega
  all_goals exact BitVec.eq_of_toNat_eq hw.symm

/-- Every word of the row of CRCUPD is CRCUPD of its low byte. -/
theorem decode_of_crcupd_row {w : Command} (h : w &&& 0xFF00 = 0x0200) :
    decode w = .ok (.crcupd (w.extractLsb' 0 8)) := by
  have hop : opOf w = 2 := by
    have hbits := congrArg (BitVec.extractLsb' 8 8) h
    rw [BitVec.extractLsb'_and] at hbits
    exact (BitVec.and_allOnes (x := opOf w)).symm.trans hbits
  unfold decode
  rw [hop]
  rfl

/-- The word of every legal command is in a row of the table. -/
theorem row_of_decode_ok {w : Command} {i : Instr} (h : decode w = .ok i) :
    w = 0x0000 ∨ w = 0x0100 ∨ w &&& 0xFF00 = 0x0200 ∨ w = 0x0300 ∨ w = 0x0301 ∨ w = 0x0400 ∨ w = 0x0500 ∨
      w = 0x0600 := by
  obtain rfl := encode_of_decode h
  cases i with
  | crcupd b => exact .inr (.inr (.inl (Laws.EncodesTableRow.crcupd b)))
  | verify sel => cases sel <;> decide
  | nop | crcinit | build | parse | clrf => decide

end Sys2Proof

namespace Sys2Proof.Machine

/-! ### Issuing a command word (30_encoding R98) -/

theorem issue_of_ok {w : Command} {i : Instr} (s : State) (h : decode w = .ok i) : issue w s = exec i s := by
  unfold issue; rw [h]

theorem issue_of_error {w : Command} {e : DecodeError} (s : State) (h : decode w = .error e) :
    issue w s = s.unlessFailed (s.raise .illegalCommand) := by
  unfold issue; rw [h]

/-- In the Failed state every command but CLRF is discarded (60_exceptions R223). -/
theorem exec_of_failed {i : Instr} {s : State} (hi : i ≠ .clrf) (hs : s.err ≠ 0) : exec i s = .next s := by
  cases i with
  | clrf => exact absurd rfl hi
  | nop | crcinit | crcupd | verify | build | parse => exact State.unlessFailed_of_failed _ hs

/-- In the Failed state the word of CLRF clears ERR and every other word, legal or not, is discarded. -/
theorem issue_of_failed {s : State} (w : Command) (hs : s.err ≠ 0) :
    issue w s = if w = 0x0600 then .next { s with err := 0 } else .next s := by
  split
  · rename_i hw
    rw [hw]
    rfl
  · rename_i hw
    cases hd : decode w with
    | ok i =>
      have hi : i ≠ .clrf := by rintro rfl; exact hw (encode_of_decode hd).symm
      rw [issue_of_ok s hd, exec_of_failed hi hs]
    | error e => rw [issue_of_error s hd, State.unlessFailed_of_failed _ hs]

/-- Outside the Failed state an illegal word raises IllegalCommand. -/
theorem issue_of_illegal {w : Command} {s : State} (hw : ∀ i, decode w ≠ .ok i) (hs : s.err = 0) :
    issue w s = .next { s with err := 6 } := by
  cases hd : decode w with
  | ok i => exact absurd hd (hw i)
  | error e => rw [issue_of_error s hd, State.unlessFailed_of_ok _ hs]; rfl

/-! ### The request frame (30_encoding R102) -/

/-- A frame `build_request` gives is the header and the payload, then their checksum low byte first. -/
theorem eq_of_buildRequest_ok {u f : Byte} {a c : Half} {p frame : List Byte}
    (h : buildRequest u f a c p = .ok frame) :
    frame = requestHeader u f a c ++ p ++ le16 (checksum (requestHeader u f a c ++ p)) := by
  unfold buildRequest at h
  split at h
  · cases h
  · injection h with h
    exact h.symm

/-! ### The obligations -/

/-- Settles O7: the Failed state apart, along the rows of the table; a word in none of them is illegal. -/
theorem commandDispatchIsTheDecodeTable : Obligations.CommandDispatchIsTheDecodeTable := by
  intro s u d rest w h hd hw hu
  have hstep : step s = issue w u := by rw [hw, hu]; exact step_cmd h hd
  have herr : s.err = u.err := by rw [hu]; rfl
  rw [hstep, herr]
  by_cases hs : u.err ≠ 0
  · rw [if_pos hs, issue_of_failed w hs]
  · rw [if_neg hs]
    split_ifs with hnop hcrcinit hcrcupd htx hrx hbuild hparse hclrf
    · rw [hnop]; rfl
    · rw [hcrcinit]; rfl
    · exact issue_of_ok u (decode_of_crcupd_row hcrcupd)
    · rw [htx]; rfl
    · rw [hrx]; rfl
    · rw [hbuild]; rfl
    · rw [hparse]; rfl
    · rw [hclrf]; rfl
    · refine issue_of_illegal (fun i hi => ?_) (not_not.1 hs)
      have hrow := row_of_decode_ok hi
      tauto

/-- Settles O34: the header's bytes stand first, and the offsets of the payload and of the checksum follow from the
lengths of what stands before them. -/
theorem requestFrameLayout : Obligations.RequestFrameLayout := by
  intro u f a c p frame h
  obtain rfl := eq_of_buildRequest_ok h
  have hbody : (requestHeader u f a c ++ p).length = 6 + p.length := by simp
  refine ⟨?length, rfl, rfl, rfl, rfl, rfl, rfl, fun i hi => ?payload, _, rfl, ?crcLow, ?crcHigh⟩
  case length => rw [List.length_append, hbody]; simp [le16]; omega
  case payload =>
    rw [List.getElem?_append_left (by omega), List.getElem?_append_right (by simp), requestHeader_length,
      Nat.add_sub_cancel_left]
  all_goals rw [List.take_left' hbody, List.getElem?_append_right (by omega), hbody]
  case crcLow => rw [Nat.sub_self]; rfl
  case crcHigh => rw [Nat.add_sub_add_right]; rfl

/-- Settles O11: at the word index of CMD, data above 16 bits are the rejected ones. -/
theorem cmdWriteWithUpperHalfIsABusError : Obligations.CmdWriteWithUpperHalfIsABusError :=
  fun _ d _ h hd => step_write_rejected h ((rejectsWrite_zero_iff d.toNat).2 hd)

end Sys2Proof.Machine

/-! ## Proofs of the family 40_crc -/

namespace Sys2Proof

/-! ### Immediates (30_encoding R91, R92) -/

/-- By its number: a legal word is a word of CRCUPD, has the immediate 0, or is the word of VERIFY RX. -/
theorem imm_of_decode_ok {n : Nat} (hn : n < 2 ^ 16) {i : Instr} (h : decode (BitVec.ofNat 16 n) = .ok i) :
    n / 256 = 2 ∨ n % 256 = 0 ∨ n = 0x0301 := by
  have hw : (BitVec.ofNat 16 n).toNat = n := Nat.mod_eq_of_lt hn
  obtain ⟨h', _⟩ | ⟨h', _⟩ | ⟨h', _⟩ | ⟨h', _⟩ | ⟨h', _⟩ | ⟨h', _⟩ | ⟨h', _⟩ | ⟨h', _⟩ | herror :=
    decode_cases (BitVec.ofNat 16 n)
  case inr.inr.inr.inr.inr.inr.inr.inr =>
    obtain ⟨_, hd⟩ | ⟨_, _, hd⟩ | ⟨_, _, hd⟩ := herror <;> cases h.symm.trans hd
  all_goals omega

/-- The data byte of CRCUPD is the low byte of its word. -/
theorem immOf_encode_crcupd (b : Byte) : immOf (encode (.crcupd b)) = b := by
  have hop : (0x0200 : Command).toNat = 512 := rfl
  have hb := b.isLt
  apply BitVec.eq_of_toNat_eq
  rw [toNat_immOf]
  simp only [encode, BitVec.toNat_add, BitVec.toNat_setWidth]
  omega

end Sys2Proof

namespace Sys2Proof.Machine

/-! ### The frame check (40_crc R130) -/

theorem frameOk_of_short {f : List Byte} (h : f.length < 2) : frameOk f = false := if_pos h

theorem frameOk_append (body : List Byte) (lo hi : Byte) :
    frameOk (body ++ [lo, hi]) = decide (checksum body = joinBytes hi lo) := by
  simp [frameOk]

/-- The comparison CRC_OK takes is the frame check of the frame with these last two bytes. -/
theorem crcMatches_checksum (body : List Byte) (lo hi : Byte) :
    crcMatches (checksum body) lo hi = frameOk (body ++ [lo, hi]) := by
  rw [frameOk_append, decide_eq_decide.2 (eq_joinBytes_iff_bytes _ _ _), Bool.decide_and]
  rfl

/-! ### VERIFY over a buffer (40_crc R131) -/

/-- A slice of two bytes or more ends in its last two bytes. -/
theorem State.slice_eq_append (s : State) (site : ReadSite) (b : Buf) {n : Nat} (hn : 2 ≤ n) :
    s.slice site b 0 n = s.slice site b 0 (n - 2) ++ [s.memRead site b (n - 2), s.memRead site b (n - 1)] := by
  obtain ⟨m, rfl⟩ := Nat.exists_eq_add_of_le' hn
  simp [State.slice, List.range'_concat]

/-- What VERIFY compares is the frame check of the whole frame. -/
theorem crcMatches_slice (s : State) (b : Buf) {n : Nat} (hn : 2 ≤ n) :
    crcMatches (checksum (s.slice .frame b 0 (n - 2))) (s.memRead .frame b (n - 2)) (s.memRead .frame b (n - 1)) =
      frameOk (s.slice .frame b 0 n) := by
  rw [crcMatches_checksum, s.slice_eq_append .frame b hn]

/-- On this hardware both buffers VERIFY can name hold 1024 bytes. -/
theorem size_selBuf (sel : Sel) : Buf.size Config.params (selBuf sel) = 1024 := by cases sel <;> rfl

section
variable {s : State} {sel : Sel} (he : s.err = 0)
include he

/-- VERIFY of less than two bytes finds no frame. -/
theorem exec_verify_of_short (hn : s.selLength sel < 2) : exec (.verify sel) s = .next { s with crcOk := false } :=
  (State.unlessFailed_of_ok _ he).trans (if_pos hn)

/-- VERIFY of two bytes or more, within the buffer. -/
theorem exec_verify_of_le (hn : 2 ≤ s.selLength sel) (hle : s.selLength sel ≤ 1024) :
    exec (.verify sel) s = .next { s with
      acc := checksum (s.slice .frame (selBuf sel) 0 (s.selLength sel - 2))
      crcOk := crcMatches (checksum (s.slice .frame (selBuf sel) 0 (s.selLength sel - 2)))
        (s.memRead .frame (selBuf sel) (s.selLength sel - 2)) (s.memRead .frame (selBuf sel) (s.selLength sel - 1)) } := by
  refine (State.unlessFailed_of_ok _ he).trans ?_
  rw [verifyFrame_of_le _ _ _ _ (by rwa [size_selBuf]), if_neg (by omega)]

/-- VERIFY sets CRC_OK to the frame check of the frame, however short. -/
theorem exec_verify_crcOk (hle : s.selLength sel ≤ 1024) :
    ∃ t, exec (.verify sel) s = .next t ∧ t.crcOk = frameOk (s.slice .frame (selBuf sel) 0 (s.selLength sel)) := by
  by_cases hn : s.selLength sel < 2
  · exact ⟨_, exec_verify_of_short he hn, (frameOk_of_short (by rwa [State.slice_length])).symm⟩
  · exact ⟨_, exec_verify_of_le he (by omega) hle, crcMatches_slice s _ (by omega)⟩

end

/-! ### The obligations -/

/-- Settles O20: the byte enters the low half, and the eight bit steps are an iteration; the examples are computed. -/
theorem crcByteStep : Obligations.CrcByteStep := by
  refine ⟨fun a b => ?step, ?trace, ?examples⟩
  case step => rw [← xor_setWidth_eq]; rfl
  case trace => decide
  case examples => decide

/-- Settles O24: the check of a frame whose last two bytes are named compares the checksum with their join. -/
theorem frameCheckComparesTheLastTwoBytes : Obligations.FrameCheckComparesTheLastTwoBytes := by
  refine ⟨fun _ => frameOk_of_short, fun body lo hi => ?_⟩
  rw [frameOk_append, decide_eq_true_iff, eq_joinBytes_iff]

/-- Settles O30: the buffer and length are those the selector names; VERIFY of a short frame and of a longer one, each
also as the frame check; and an immediate of 2 or more is in no row. -/
theorem verifyComparesTheFrame : Obligations.VerifyComparesTheFrame := by
  refine ⟨fun s sel b n he hsel hle => ?compares, fun s sel => exec_of_failed nofun, fun imm himm i hi => ?illegal⟩
  case compares =>
    obtain ⟨rfl, rfl⟩ : b = selBuf sel ∧ n = s.selLength sel := by cases sel <;> exact Prod.mk.inj hsel
    refine ⟨exec_verify_of_short he, fun hn => ⟨_, rfl, ?_⟩, exec_verify_crcOk he hle⟩
    rw [exec_verify_of_le he hn hle, crcMatches_eq]
  case illegal =>
    have hlt := imm.isLt
    have hlegal := imm_of_decode_ok (by omega) hi
    omega

/-- Settles O19: bit 0 is the remainder by 2 and the shift is the half; the examples are computed. -/
theorem crcBitStep : Obligations.CrcBitStep := by
  refine ⟨fun a => ?step, ?examples⟩
  case step =>
    have hbit : a.getLsbD 0 = decide (a.toNat % 2 = 1) := Nat.testBit_zero a.toNat
    have hhalf : a >>> 1 = BitVec.ofNat 16 (a.toNat / 2) :=
      BitVec.eq_of_toNat_eq (by simp [Nat.shiftRight_eq_div_pow]; omega)
    simp only [crcBit, hbit, hhalf, decide_eq_true_iff]
  case examples => decide

/-- Settles O21: a left fold takes the last byte last. -/
theorem checksumIsTheFold : Obligations.ChecksumIsTheFold :=
  ⟨rfl, fun s b => List.foldl_concat crcByte crcInit b s⟩

/-- Settles O28: outside the Failed state the assignment to ACC, in it nothing; an immediate other than 0 is in no
row. -/
theorem crcinitSetsAcc : Obligations.CrcinitSetsAcc := by
  refine ⟨fun s => State.unlessFailed_of_ok _, fun s => exec_of_failed nofun, rfl, fun imm himm i hi => ?_⟩
  have hne : imm.toNat ≠ 0 := fun h => himm (BitVec.eq_of_toNat_eq h)
  have hlt := imm.isLt
  have hlegal := imm_of_decode_ok (by omega) hi
  omega

/-- Settles O29: outside the Failed state the byte step on ACC, in it nothing; every word of the row is CRCUPD of its
low byte. -/
theorem crcupdStepsAcc : Obligations.CrcupdStepsAcc := by
  refine ⟨fun s b => State.unlessFailed_of_ok _, fun s b => exec_of_failed nofun, fun b => ?_⟩
  calc decode (encode (.crcupd b))
    _ = .ok (.crcupd (immOf (encode (.crcupd b)))) := decode_of_crcupd_row (Laws.EncodesTableRow.crcupd b)
    _ = .ok (.crcupd b) := by rw [immOf_encode_crcupd]

end Sys2Proof.Machine

/-! ## Proofs of the family 41_frame_builder -/

namespace Sys2Proof

/-! ### Immediates of format N (30_encoding R91) -/

/-- A word of any operation but CRCUPD and VERIFY with an immediate other than 0 is no command. -/
theorem decode_ne_ok_of_imm_ne_zero {op : Nat} (hop : op < 256) (hcrcupd : op ≠ 2) (hverify : op ≠ 3) {imm : Byte}
    (himm : imm ≠ 0) (i : Instr) : decode (BitVec.ofNat 16 (op * 256 + imm.toNat)) ≠ .ok i := by
  intro hi
  have hne : imm.toNat ≠ 0 := fun h => himm (BitVec.eq_of_toNat_eq h)
  have hlt := imm.isLt
  have hlegal := imm_of_decode_ok (by omega) hi
  omega

end Sys2Proof

namespace Sys2Proof.Machine

/-! ### The function build_request (41_frame_builder R150, R155) -/

theorem buildRequest_of_count_zero (u f : Byte) (a : Half) (p : List Byte) :
    buildRequest u f a 0 p = .error .invalidArgument := if_pos rfl

theorem buildRequest_of_count_ne_zero {c : Half} (hc : c ≠ 0) (u f : Byte) (a : Half) (p : List Byte) :
    buildRequest u f a c p =
      .ok (requestHeader u f a c ++ p ++ le16 (checksum (requestHeader u f a c ++ p))) := if_neg hc

/-! ### The frame BUILD writes (41_frame_builder R151) -/

/-- The bytes BUILD leaves in TX: the header, the payload as PAY gives it, and their checksum. -/
def State.requestFrame (s : State) : List Byte := s.requestBody ++ le16 (checksum s.requestBody)

/-- What BUILD writes is what `build_request` gives. -/
theorem State.buildRequest_eq_requestFrame (s : State) (hc : s.count ≠ 0) :
    buildRequest s.unit s.func s.addr s.count (s.slice .payload .pay 0 s.plen.toNat) = .ok s.requestFrame :=
  buildRequest_of_count_ne_zero hc _ _ _ _

@[simp] theorem State.requestFrame_length (s : State) : s.requestFrame.length = 8 + s.plen.toNat := by
  simp only [State.requestFrame, le16, List.length_append, State.requestBody_length, List.length_cons, List.length_nil]
  omega

/-- All but the two checksum bytes. -/
theorem State.requestFrame_take (s : State) : s.requestFrame.take (6 + s.plen.toNat) = s.requestBody :=
  List.take_left' s.requestBody_length

theorem State.buildFrame_eq_requestFrame (s : State) :
    s.buildFrame = { s with
      mem := (s.memWriteSeq .tx 0 s.requestFrame).mem
      tlen := BitVec.ofNat 11 s.requestFrame.length
      acc := checksum (s.requestFrame.take (6 + s.plen.toNat)) } := by
  rw [State.requestFrame_length, State.requestFrame_take]
  exact s.buildFrame_eq

/-- TX holds the frame from its first location on, and every other location is what it was. -/
theorem State.get_buildFrame_mem (s : State) (a : Nat) :
    Sparse.get s.buildFrame.mem a =
      if 0x0800 ≤ a ∧ a < 0x0800 + s.requestFrame.length then s.requestFrame[a - 0x0800]?
      else Sparse.get s.mem a := by
  rw [State.buildFrame_eq_requestFrame]
  exact s.get_memWriteSeq .tx 0 s.requestFrame a

/-! ### BUILD (41_frame_builder R151) -/

/-- BUILD with COUNT = 0 raises InvalidArgument. -/
theorem exec_build_of_count_zero {s : State} (he : s.err = 0) (hc : s.count = 0) :
    exec .build s = .next { s with tlen := 0, err := 1 } :=
  (State.unlessFailed_of_ok _ he).trans (if_pos hc)

/-- BUILD with COUNT not 0, the payload within PAY. -/
theorem exec_build_of_le {s : State} (he : s.err = 0) (hc : s.count ≠ 0) (hn : s.plen.toNat ≤ 1016) :
    exec .build s = .next s.buildFrame := by
  calc exec .build s
    _ = buildCmd Config.params s := State.unlessFailed_of_ok _ he
    _ = withinBuffer Config.params .pay s.plen.toNat (.next s.buildFrame) := if_neg hc
    _ = .next s.buildFrame := withinBuffer_of_le _ hn

/-! ### The obligations -/

/-- Settles O31: BUILD leaves in TX what `build_request` gives; COUNT = 0 and the Failed state apart; an immediate other
than 0 is in no row. -/
theorem buildAssemblesTheFrame : Obligations.BuildAssemblesTheFrame := by
  refine ⟨fun s he hc hn => ?_, fun s => exec_build_of_count_zero, fun s => exec_of_failed nofun, rfl,
    fun _ himm => decode_ne_ok_of_imm_ne_zero (op := 4) (by decide) (by decide) (by decide) himm⟩
  refine ⟨s.buildFrame, s.requestFrame, s.buildRequest_eq_requestFrame hc, s.requestFrame_length,
    exec_build_of_le he hc hn, ?registers, fun i hi => ?written, fun a ha => ?kept⟩
  case registers => rw [State.buildFrame_eq_requestFrame]
  case written => rw [State.get_buildFrame_mem, if_pos (by omega), Nat.add_sub_cancel_left]
  case kept => rw [State.get_buildFrame_mem, if_neg (by omega)]

/-- Settles O35: the test on the count comes first; the header is its six bytes written out. -/
theorem buildRequestFailsOnlyOnCountZero : Obligations.BuildRequestFailsOnlyOnCountZero := by
  refine fun u f a c p => ⟨?_, fun hc => buildRequest_of_count_ne_zero hc u f a p⟩
  rintro rfl
  exact buildRequest_of_count_zero u f a p

end Sys2Proof.Machine

/-! ## Proofs of the family 42_response_parser -/

namespace Sys2Proof.Machine

/-! ### The checks of `parse_response` (42_response_parser R171 to R174) -/

/-- The comparison of check 3, by numbers: the checksum bytes are sent low byte first. -/
theorem respCrcOk_iff (raw : List Byte) (n : Nat) :
    respCrcOk raw n = true ↔
      (checksum (raw.take (3 + n))).toNat = 256 * (raw.getD (4 + n) 0).toNat + (raw.getD (3 + n) 0).toNat := by
  rw [respCrcOk, decide_eq_true_iff, eq_joinBytes_iff]

/-- Check 1: too short to declare a byte count. -/
theorem parseResponse_of_short (p : Params) {raw : List Byte} (start : Half) (h : raw.length < 5) :
    parseResponse p raw start = .error .truncatedHeader := if_pos h

section
variable (p : Params) {raw : List Byte} (start : Half) {n : Nat} (hn : n = (raw.getD 2 0).toNat) (h5 : 5 ≤ raw.length)
include hn h5

/-- Check 2: shorter than the byte count declares. -/
theorem parseResponse_of_truncated (h : raw.length < 3 + n + 2) :
    parseResponse p raw start = .error .truncatedDeclared := by
  subst hn
  exact (if_neg (by omega)).trans (if_pos h)

/-- Check 3, which a strict parser alone makes: the checksum bytes differ. -/
theorem parseResponse_of_mismatch (h : 3 + n + 2 ≤ raw.length) (hs : p.strictCrc = true)
    (hbad : ¬ respCrcOk raw n = true) : parseResponse p raw start = .error .crcMismatch := by
  rw [parseResponse_of_declared p raw start n hn h5 h, if_pos (by simp [hs, hbad])]

/-- Past check 3, the parity of the byte count decides. -/
theorem parseResponse_of_checked (h : 3 + n + 2 ≤ raw.length) (hok : p.strictCrc = true → respCrcOk raw n = true) :
    parseResponse p raw start =
      if n % 2 = 1 then .error .oddByteCount else .ok (readingsOf p start n fun i => raw.getD i 0) := by
  rw [parseResponse_of_declared p raw start n hn h5 h, if_neg (by simpa using hok)]

end

/-! ### A reading's three fields (42_response_parser R175 to R178) -/

/-- The stored pattern, read as two's complement, is the integer of R177, in both modes. -/
theorem signed16_toInt (signFix : Bool) (raw : Half) : (signed16 signFix raw).toInt = signedValue signFix raw := by
  have hlt := raw.isLt
  have hbit : raw.getLsbD 15 = decide (32768 ≤ raw.toNat) := BitVec.msb_eq_decide raw
  unfold signed16 signedValue
  rw [hbit]
  cases signFix with
  | true => simp [BitVec.toInt_eq_toNat_cond]; omega
  | false =>
    by_cases h : 32768 ≤ raw.toNat
    · simp [h, BitVec.toInt_eq_toNat_cond]; omega
    · simp [h, BitVec.toInt_eq_toNat_cond]; omega

section
variable (p : Params) (start : Half) (k : Nat) (hi lo : Byte)

/-- 17 bits hold every start address and index without wrap. -/
theorem readingOf_address_toNat (h : k < 2 ^ 16) : (readingOf p start k hi lo).address.toNat = start.toNat + k := by
  have hlt := start.isLt
  simp only [readingOf, BitVec.toNat_add, BitVec.toNat_setWidth, BitVec.toNat_ofNat]
  omega

theorem readingOf_raw_toNat : (readingOf p start k hi lo).raw.toNat = 256 * hi.toNat + lo.toNat := joinBytes_toNat hi lo

theorem readingOf_signed_toInt :
    (readingOf p start k hi lo).signed.toInt = signedValue p.signFix (readingOf p start k hi lo).raw :=
  signed16_toInt p.signFix (joinBytes hi lo)

end

/-! ### A successful PARSE (42_response_parser R183) -/

/-- The state a successful PARSE leaves on this hardware, with n the declared byte count. -/
def State.decodedResponse (s : State) (n : Nat) : State :=
  { (s.checkedResponse n).writeRdSeq 0 (readingsOf Config.params s.addr n (s.memRead .data .rx)) with
    rdcnt := BitVec.ofNat 7 (n / 2)
    rdv := true }

/-- PARSE past checks 1 and 2 with an even byte count: this hardware makes no check 3. -/
theorem exec_parse_of_even {s : State} (he : s.err = 0) (h5 : 5 ≤ s.rlen.toNat) (hr : s.rlen.toNat ≤ 1024)
    (hn : 3 + s.byteCount + 2 ≤ s.rlen.toNat) (heven : s.byteCount % 2 = 0) :
    exec .parse s = .next (s.decodedResponse s.byteCount) := by
  calc exec .parse s
    _ = parseCmd Config.params s := State.unlessFailed_of_ok _ he
    _ = parseDeclared Config.params s.byteCount s := parseCmd_of_declared _ s h5 hr hn
    _ = .next (s.decodedResponse s.byteCount) := by
      rw [parseDeclared_eq, if_neg (by simp [Config.params]), if_neg (by omega)]
      rfl

/-- PARSE writes ACC, CRC_OK, RD, RDCNT and RDV and nothing else. -/
theorem State.decodedResponse_frame (s : State) (n : Nat) :
    s.decodedResponse n = { s.checkedResponse n with
      rd := (s.decodedResponse n).rd, rdcnt := BitVec.ofNat 7 (n / 2), rdv := true } := by
  unfold State.decodedResponse
  rw [State.writeRdSeq_eq]

/-- The entries below the new RDCNT are the readings and the others are kept. -/
theorem State.writtenRd_decodedResponse (s : State) (n k : Nat) :
    (s.decodedResponse n).writtenRd k =
      if k < n / 2 then
        some (readingOf Config.params s.addr k (s.memRead .data .rx (3 + 2 * k)) (s.memRead .data .rx (4 + 2 * k)))
      else s.writtenRd k := by
  have hget := (s.checkedResponse n).get_writeRdSeq 0 (readingsOf Config.params s.addr n (s.memRead .data .rx)) k
  rw [readingsOf_length] at hget
  refine hget.trans ?_
  by_cases hk : k < n / 2
  · rw [if_pos hk, if_pos (by omega), Nat.sub_zero, readingsOf_getElem? _ _ _ _ _ hk]
  · rw [if_neg hk, if_neg (by omega)]
    rfl

/-- RDCNT holds the number of readings of every byte count. -/
theorem State.decodedResponse_rdcnt_toNat (s : State) {n : Nat} (hn : n < 256) :
    (s.decodedResponse n).rdcnt.toNat = n / 2 := by
  rw [State.decodedResponse_frame, BitVec.toNat_ofNat]
  omega

/-! ### Hexadecimal digits (42_response_parser R179) -/

/-- The digits in order of value, in either letter case. -/
def hexDigits : Bool → List Char
  | false => ['0', '1', '2', '3', '4', '5', '6', '7', '8', '9', 'a', 'b', 'c', 'd', 'e', 'f']
  | true => ['0', '1', '2', '3', '4', '5', '6', '7', '8', '9', 'A', 'B', 'C', 'D', 'E', 'F']

theorem hexDigits_getElem? (upper : Bool) (d : BitVec 4) : (hexDigits upper)[d.toNat]? = some (hexDigit upper d) := by
  revert upper d
  decide

theorem hex4_map_some (upper : Bool) (v : Half) :
    (hex4 upper v).map some =
      [v.extractLsb' 12 4, v.extractLsb' 8 4, v.extractLsb' 4 4, v.extractLsb' 0 4].map
        fun d => (hexDigits upper)[d.toNat]? := by
  simp only [hexDigits_getElem?]
  rfl

/-! ### The obligations -/

/-- Settles O41: the state PARSE leaves, its RD entries by the fields of a reading. -/
theorem parseDecodesTheReadings : Obligations.ParseDecodesTheReadings := by
  rintro s _ _ he hr rfl h5 hn heven rfl
  have hlt := s.byteCount_lt
  refine ⟨s.decodedResponse s.byteCount, exec_parse_of_even he h5 hr hn heven, ?frame,
    s.decodedResponse_rdcnt_toNat hlt, fun k hk => ?reading, fun k hk => ?kept⟩
  case frame =>
    rw [← crcMatches_eq]
    exact s.decodedResponse_frame s.byteCount
  case reading =>
    rw [State.writtenRd_decodedResponse, if_pos hk]
    exact ⟨_, rfl, readingOf_address_toNat _ _ _ _ _ (by omega), readingOf_raw_toNat _ _ _ _ _,
      readingOf_signed_toInt _ _ _ _ _⟩
  case kept => rw [State.writtenRd_decodedResponse, if_neg (by omega)]

/-- Settles O43: the checks one after the other; past check 3 the parity of the byte count decides. -/
theorem parseChecksInOrder : Obligations.ParseChecksInOrder := by
  refine ⟨⟨rfl, rfl, rfl, rfl⟩, fun p raw start n hn => ?_⟩
  simp only [ne_eq, ← respCrcOk_iff]
  refine ⟨parseResponse_of_short p start, parseResponse_of_truncated p start hn,
    parseResponse_of_mismatch p start hn, fun h5 h hok hodd => ?odd, fun h5 h hok heven => ?even⟩
  case odd => rw [parseResponse_of_checked p start hn h5 h hok, if_pos hodd]
  case even =>
    rw [parseResponse_of_checked p start hn h5 h hok, if_neg (by omega)]
    exact ⟨_, rfl, readingsOf_length ..⟩

/-- Settles O48: each of the four digits is looked up in the table of its letter case. -/
theorem hexRenderingDigits : Obligations.HexRenderingDigits :=
  fun v => ⟨hex4_map_some false v, hex4_map_some true v⟩

end Sys2Proof.Machine

/-! ## Proofs of the family 43_control -/

namespace Sys2Proof.Machine

/-! ### NOP (43_control R200) -/

/-- In the Failed state NOP is discarded, which is no change either. -/
theorem exec_nop (s : State) : exec .nop s = .next s := by
  by_cases hs : s.err = 0
  · exact State.unlessFailed_of_ok _ hs
  · exact exec_of_failed nofun hs

/-! ### Issuing an illegal word (30_encoding R94, 43_control R201) -/

/-- An illegal word raises IllegalCommand, or is discarded in the Failed state: it is not the word of CLRF. -/
theorem issue_of_illegal_eq_ite {w : Command} (hw : ∀ i, decode w ≠ .ok i) (s : State) :
    issue w s = if s.err = 0 then .next { s with err := 6 } else .next s := by
  by_cases hs : s.err = 0
  · rw [if_pos hs, issue_of_illegal hw hs]
  · have hclrf : w ≠ 0x0600 := by
      rintro rfl
      exact hw .clrf rfl
    rw [if_neg hs, issue_of_failed w hs, if_neg hclrf]

/-! ### The obligations -/

/-- Settles O26: NOP in and outside the Failed state; an immediate other than 0 is in no row. -/
theorem nopChangesNothing : Obligations.NopChangesNothing :=
  ⟨exec_nop, rfl,
    fun _ himm => decode_ne_ok_of_imm_ne_zero (op := 0) (by decide) (by decide) (by decide) himm⟩

/-- Settles O27: CLRF is the assignment to ERR in every state; with an immediate other than 0 its word is illegal. -/
theorem clrfClearsOnlyErr : Obligations.ClrfClearsOnlyErr :=
  ⟨fun _ => rfl, rfl, fun s _ himm => issue_of_illegal_eq_ite
    (decode_ne_ok_of_imm_ne_zero (op := 6) (by decide) (by decide) (by decide) himm) s⟩

end Sys2Proof.Machine

/-! ## Proofs of the family 60_exceptions -/

namespace Sys2Proof

/-! ### Words in no row of the opcode table (30_encoding R93, R94) -/

/-- A word that fails every mask and match of the table is no command. -/
theorem decode_ne_ok_of_no_row {w : Command} (hexact : w &&& 0xFFFF ∉ [0x0000, 0x0100, 0x0400, 0x0500, 0x0600])
    (hcrcupd : w &&& 0xFF00 ≠ 0x0200) (hverify : w &&& 0xFFFE ≠ 0x0300) (i : Instr) : decode w ≠ .ok i := by
  intro hi
  have hfull : w &&& 0xFFFF = w := BitVec.and_allOnes
  rw [hfull] at hexact
  obtain rfl | rfl | hrow | rfl | rfl | rfl | rfl | rfl := row_of_decode_ok hi
  case inr.inr.inl => exact hcrcupd hrow
  case inr.inr.inr.inl | inr.inr.inr.inr.inl => exact hverify rfl
  all_goals exact hexact (by decide)

end Sys2Proof

namespace Sys2Proof.Machine

/-! ### Transactions in the Failed state (60_exceptions R223, R224) -/

/-- Every accepted word but that of CLRF is discarded. -/
theorem step_cmd_of_failed {s : State} {d : Data} {rest : List Txn} (h : s.script = .write 0 d :: rest)
    (hd : d.toNat < 2 ^ 16) (hs : s.err ≠ 0) (hclrf : d.toNat ≠ 0x0600) :
    step s = .next ((s.popped rest).answered .writeDone) := by
  have hw : d.setWidth 16 ≠ (0x0600 : Command) := by
    intro hw
    have hnum := congrArg BitVec.toNat hw
    rw [BitVec.toNat_setWidth, Nat.mod_eq_of_lt hd] at hnum
    exact hclrf hnum
  have hfailed : ((s.popped rest).answered .writeDone).err ≠ 0 := hs
  rw [step_cmd h hd, issue_of_failed _ hfailed, if_neg hw]

/-- A register's word index is the only one that names it. -/
theorem toNat_of_place_eq_reg {a : Index} {r : Reg} (h : place Config.params a = .reg r) :
    a.toNat = Reg.index r := by
  obtain ⟨r', hp, hr⟩ | ⟨hp, _⟩ | ⟨hp, _⟩ | ⟨hp, _⟩ | ⟨hp, _⟩ | ⟨hp, _⟩ | ⟨hp, _⟩ := place_cases a <;>
    cases hp.symm.trans h
  exact hr

/-- ERR shows in a read of STATUS and of ERR itself and in no other. -/
theorem State.placeRead_err (s : State) (e : BitVec 3) {l : Place} (hstatus : l ≠ .reg .status)
    (herr : l ≠ .reg .err) : State.placeRead { s with err := e } l = s.placeRead l := by
  cases l with
  | reg r =>
    cases r with
    | status => exact absurd rfl hstatus
    | err => exact absurd rfl herr
    | cmd | acc | unit | func | addr | count | plen | tlen | rlen | rdcnt => rfl
  | byte | rdAddress | rdValue | reserved => rfl

/-- A write elsewhere than to CMD neither reads nor writes ERR. -/
theorem step_write_err {s : State} (e : BitVec 3) {a : Index} {d : Data} {rest : List Txn}
    (h : s.script = .write a d :: rest) (ha : a ≠ 0) :
    ∃ t, step s = .next t ∧ step { s with err := e } = .next { t with err := e } ∧ t.err = s.err := by
  obtain ⟨hkeeps, _⟩ := storeAt_keeps Config.params (s.popped rest) (place Config.params a) d
  refine ⟨_, step_write h ha, ?_, hkeeps⟩
  rw [step_write (s := { s with err := e }) h ha]
  exact congrArg _ (storeAt_err Config.params (s.popped rest) e _ d)

/-- A read of another place than STATUS and ERR neither reads nor writes ERR. -/
theorem step_read_err {s : State} (e : BitVec 3) {a : Index} {rest : List Txn} (h : s.script = .read a :: rest)
    (hstatus : a ≠ 1) (herr : a ≠ 2) :
    ∃ t, step s = .next t ∧ step { s with err := e } = .next { t with err := e } ∧ t.err = s.err := by
  have hread : (State.popped { s with err := e } rest).placeRead (place Config.params a) =
      (s.popped rest).placeRead (place Config.params a) :=
    State.placeRead_err (s.popped rest) e
      (fun hp => hstatus ((index_eq_ofNat a 1 (by decide)).2 (toNat_of_place_eq_reg hp)))
      (fun hp => herr ((index_eq_ofNat a 2 (by decide)).2 (toNat_of_place_eq_reg hp)))
  refine ⟨_, step_read h, ?_, rfl⟩
  rw [step_read (s := { s with err := e }) h, hread]
  rfl

/-- From the Failed state every transaction but the word of CLRF and `Reset` keeps the cause. -/
theorem step_keeps_cause {s t : State} {x : Txn} {rest : List Txn} (h : s.script = x :: rest) (hs : s.err ≠ 0)
    (hstep : step s = .next t) (hclrf : x ≠ .write 0 0x0600) (hreset : x ≠ .reset) : t.err = s.err := by
  cases x with
  | write a d =>
    by_cases ha : a = 0
    · subst ha
      by_cases hd : d.toNat < 2 ^ 16
      · have hword : d.toNat ≠ 0x0600 := fun hd => hclrf (congrArg _ (BitVec.eq_of_toNat_eq hd))
        cases hstep.symm.trans (step_cmd_of_failed h hd hs hword)
        rfl
      · cases hstep.symm.trans (step_write_rejected h ((rejectsWrite_zero_iff _).2 (Nat.not_lt.1 hd)))
        rfl
    · obtain ⟨t', ht', _, hkeeps⟩ := step_write_err 0 h ha
      cases hstep.symm.trans ht'
      exact hkeeps
  | read a => cases hstep.symm.trans (step_read h); rfl
  | reset => exact absurd rfl hreset

/-! ### The faults commands raise (60_exceptions R211) -/

/-- PARSE raises the codes 2, 3 and 4, and 5 when STRICT_CRC is true. -/
theorem parseCmd_err {p : Params} {s t : State} (hs : s.err = 0) (h : parseCmd p s = .next t) :
    t.err ∈ [0, 2, 3, 4] ∨ (p.strictCrc = true ∧ t.err = 5) := by
  obtain ⟨_, rfl⟩ | ⟨_, _, _, rfl⟩ | ⟨_, _, h⟩ := parseCmd_next h
  · exact .inl (by simp [Cause.code])
  · exact .inl (by simp [Cause.code])
  · obtain ⟨hstrict, _, rfl⟩ | ⟨_, _, rfl⟩ | ⟨_, _, rfl⟩ := parseDeclared_next h
    · exact .inr ⟨hstrict, rfl⟩
    · exact .inl (by simp [Cause.code])
    · exact .inl (by simp [State.checkedResponse, hs])

/-- Outside the Failed state: BUILD raises code 1 when COUNT = 0, PARSE on this hardware codes 2, 3 and 4, and no
other command raises a fault. -/
theorem exec_err {i : Instr} {s t : State} (hs : s.err = 0) (h : exec i s = .next t) :
    t.err = 0 ∨ (i = .build ∧ s.count = 0 ∧ t.err = 1) ∨ (i = .parse ∧ t.err ∈ [2, 3, 4]) := by
  have hrun {k : Result} (h : s.unlessFailed k = .next t) : k = .next t := by
    rwa [State.unlessFailed_of_ok k hs] at h
  cases i with
  | nop => cases hrun h; exact .inl hs
  | crcinit => cases hrun h; exact .inl hs
  | crcupd b => cases hrun h; exact .inl hs
  | verify sel => obtain ⟨_, rfl⟩ | ⟨_, _, rfl⟩ := verifyFrame_next (hrun h) <;> exact .inl hs
  | build =>
    obtain ⟨hc, rfl⟩ | ⟨_, _, rfl⟩ := buildCmd_next (hrun h)
    · exact .inr (.inl ⟨rfl, hc, rfl⟩)
    · left; rw [State.buildFrame_eq]; exact hs
  | parse =>
    obtain hcode | ⟨hstrict, _⟩ := parseCmd_err hs (hrun h)
    · exact (List.mem_cons.1 hcode).imp_right fun hcode => .inr ⟨rfl, hcode⟩
    · cases hstrict
  | clrf => cases h; exact .inl rfl

/-! ### PARSE past check 2 (60_exceptions R215, R216) -/

section
variable (p : Params) {s : State} (he : s.err = 0) (hr : s.rlen.toNat ≤ p.rxSize) (h5 : 5 ≤ s.rlen.toNat)
  (hn : 3 + s.byteCount + 2 ≤ s.rlen.toNat)
include he hr h5 hn

/-- Check 3, which a strict parser alone makes: the checksum bytes differ. -/
theorem parse_of_mismatch (hs : p.strictCrc = true) (hbad : (s.checkedResponse s.byteCount).crcOk = false) :
    s.unlessFailed (parseCmd p s) = (s.checkedResponse s.byteCount).noReadings.raise .crcMismatch := by
  rw [State.unlessFailed_of_ok _ he, parseCmd_of_declared p s h5 hr hn, parseDeclared_eq,
    if_pos (by simp [hs, hbad])]

/-- Check 4: the declared byte count is odd. -/
theorem parse_of_odd (hok : p.strictCrc = true → (s.checkedResponse s.byteCount).crcOk = true)
    (hodd : s.byteCount % 2 = 1) :
    s.unlessFailed (parseCmd p s) = (s.checkedResponse s.byteCount).noReadings.raise .oddByteCount := by
  rw [State.unlessFailed_of_ok _ he, parseCmd_of_declared p s h5 hr hn, parseDeclared_eq,
    if_neg (by simpa using hok), if_pos hodd]

end

/-! ### The obligations -/

/-- Settles O8: a word in no row decodes to no command, and issuing it raises IllegalCommand. -/
theorem illegalCommandChangesOnlyErr : Obligations.IllegalCommandChangesOnlyErr := by
  rintro s d rest _ h hd rfl hs hexact hcrcupd hverify
  rw [step_cmd h hd]
  exact issue_of_illegal (decode_ne_ok_of_no_row hexact hcrcupd hverify) hs

/-- Settles O9: commands and words are discarded; stores and reads elsewhere do not see ERR; the reads of STATUS and of
ERR return them. -/
theorem failedStateHoldsOffOnlyCommands : Obligations.FailedStateHoldsOffOnlyCommands :=
  ⟨fun _ _ hs hi => exec_of_failed hi hs, fun _ _ _ => step_cmd_of_failed,
    fun _ e _ _ _ => step_write_err e, fun _ e _ _ => step_read_err e,
    fun _ _ h => step_read h, fun _ _ h => step_read h⟩

/-- Settles O10: the word of CLRF decodes to the assignment to ERR, ERR is 0 at reset, and every other transaction
keeps the cause. -/
theorem failedStateIsLeftByClrfOrReset : Obligations.FailedStateIsLeftByClrfOrReset :=
  ⟨fun _ _ h => step_cmd h (by decide), fun _ _ h => ⟨_, step_cons h, rfl⟩, fun _ _ _ _ => step_keeps_cause⟩

/-- Settles O32: BUILD with COUNT = 0, and code 1 among the codes that commands raise. -/
theorem buildWithCountZeroIsInvalidArgument : Obligations.BuildWithCountZeroIsInvalidArgument := by
  refine ⟨fun s => exec_build_of_count_zero, fun i s t hs h hcode => ?_⟩
  obtain herr | ⟨hi, hc, _⟩ | ⟨_, herr⟩ := exec_err hs h
  · rw [hcode] at herr; exact absurd herr (by decide)
  · exact ⟨hi, hc⟩
  · rw [hcode] at herr; exact absurd herr (by decide)

/-- Settles O39: check 3 of a strict parser, and code 5 among none of the codes that commands raise. -/
theorem parseCrcMismatchOnlyWhenStrict : Obligations.ParseCrcMismatchOnlyWhenStrict := by
  refine ⟨?mismatch, fun i s t hs h hcode => ?never⟩
  case mismatch =>
    rintro p s _ _ hstrict hs hr rfl h5 hn rfl hbad
    have hok : (s.checkedResponse s.byteCount).crcOk = false := by
      rw [State.checkedResponse, crcMatches_eq, decide_eq_false hbad]
    rw [parse_of_mismatch p hs hr h5 hn hstrict hok]
    simp only [State.raise, State.noReadings, hok]
    rfl
  case never =>
    obtain herr | ⟨_, _, herr⟩ | ⟨_, herr⟩ := exec_err hs h <;> rw [hcode] at herr <;>
      exact absurd herr (by decide)

/-- Settles O40: check 4 once check 3 has passed or does not exist; exec PARSE is PARSE with this hardware's
parameters. -/
theorem parseOddByteCountIsRefused : Obligations.ParseOddByteCountIsRefused := by
  rintro p s _ _ _ hs hr rfl h5 hn rfl rfl hok hodd
  rw [← crcMatches_eq] at hok ⊢
  have hparse := parse_of_odd p hs hr h5 hn hok hodd
  refine ⟨hparse, ?_⟩
  rintro rfl
  exact hparse

/-- Settles O37: check 1 comes before any read of RX. -/
theorem parseShortHeaderIsTruncated : Obligations.ParseShortHeaderIsTruncated :=
  fun _ hs h => (State.unlessFailed_of_ok _ hs).trans (if_pos h)

/-- Settles O38: check 2, with RLEN within RX. -/
theorem parseShortDataIsTruncated : Obligations.ParseShortDataIsTruncated := by
  intro s hs h5 hr hn
  have hheader : ¬ s.rlen.toNat < 5 := Nat.not_lt.2 h5
  calc exec .parse s
    _ = parseCmd Config.params s := State.unlessFailed_of_ok _ hs
    _ = withinBuffer Config.params .rx s.rlen.toNat _ := if_neg hheader
    _ = _ := withinBuffer_of_le _ hr
    _ = _ := if_pos hn

end Sys2Proof.Machine

/-! ## Proofs of the family other -/

namespace Sys2Proof

/-! ### Decoding and encoding (30_encoding R93, R94) -/

/-- The word of a command decodes to the command. -/
theorem decode_encode (i : Instr) : decode (encode i) = .ok i := by
  cases i with
  | crcupd b =>
    obtain ⟨_, _, hrow⟩ := Machine.crcupdStepsAcc
    exact hrow b
  | verify sel => cases sel <;> rfl
  | nop | crcinit | build | parse | clrf => rfl

/-- The one word of a command. -/
theorem decode_eq_ok_iff {w : Command} {i : Instr} : decode w = .ok i ↔ w = encode i := by
  refine ⟨fun h => (encode_of_decode h).symm, ?_⟩
  rintro rfl
  exact decode_encode i

/-- The row of CRCUPD has its data byte in bits 7 to 0. -/
theorem eq_encode_crcupd_iff {w : Command} {b : Byte} :
    w = encode (.crcupd b) ↔ w &&& 0xFF00 = 0x0200 ∧ b = w.extractLsb' 0 8 := by
  constructor
  · rintro rfl
    exact ⟨Laws.EncodesTableRow.crcupd b, (immOf_encode_crcupd b).symm⟩
  · rintro ⟨hrow, rfl⟩
    exact decode_eq_ok_iff.1 (decode_of_crcupd_row hrow)

/-- The row of VERIFY has its selector in bit 0. -/
theorem eq_encode_verify_iff {w : Command} {sel : Sel} :
    w = encode (.verify sel) ↔ w &&& 0xFFFE = 0x0300 ∧ sel = (if w.getLsbD 0 then Sel.rx else Sel.tx) := by
  constructor
  · rintro rfl
    cases sel <;> exact ⟨rfl, rfl⟩
  · rintro ⟨hrow, rfl⟩
    have hbit : w &&& 1 = if w.getLsbD 0 then 1 else 0 := by
      refine BitVec.and_one_eq_setWidth_ofBool_getLsbD.trans ?_
      cases w.getLsbD 0 <;> rfl
    calc w
      _ = (w &&& 0xFFFE) ||| (w &&& 1) := by rw [← BitVec.and_or_distrib_left]; exact BitVec.and_allOnes.symm
      _ = 0x0300 ||| if w.getLsbD 0 then 1 else 0 := by rw [hrow, hbit]
      _ = encode (.verify (if w.getLsbD 0 then .rx else .tx)) := by cases w.getLsbD 0 <;> rfl

theorem opOf_eq_ofNat (w : Command) : opOf w = BitVec.ofNat 8 (w.toNat / 256) := by
  rw [← toNat_opOf, BitVec.ofNat_toNat, BitVec.setWidth_eq]

theorem immOf_eq_ofNat (w : Command) : immOf w = BitVec.ofNat 8 (w.toNat % 256) := by
  rw [← toNat_immOf, BitVec.ofNat_toNat, BitVec.setWidth_eq]

/-- A word is legal by its op and imm8, or in one of the three illegal classes. -/
theorem decode_classes (w : Command) :
    ((w.toNat / 256 ∈ [0x00, 0x01, 0x04, 0x05, 0x06] ∧ w.toNat % 256 = 0 ∨ w.toNat / 256 = 0x02 ∨
      w.toNat / 256 = 0x03 ∧ w.toNat % 256 < 2) ∧ ∃ i, decode w = .ok i) ∨
    (7 ≤ w.toNat / 256 ∧ decode w = .error (.reservedOpcode (opOf w))) ∨
    (w.toNat / 256 ∈ [0x00, 0x01, 0x04, 0x05, 0x06] ∧ w.toNat % 256 ≠ 0 ∧
      decode w = .error (.nonzeroImmediate (opOf w) (immOf w))) ∨
    (w.toNat / 256 = 0x03 ∧ 2 ≤ w.toNat % 256 ∧ decode w = .error (.badSelector (immOf w))) := by
  obtain ⟨hw, hd⟩ | ⟨hw, hd⟩ | ⟨hw, hd⟩ | ⟨hw, hd⟩ | ⟨hw, hd⟩ | ⟨hw, hd⟩ | ⟨hw, hd⟩ | ⟨hw, hd⟩ | herror :=
    decode_cases w
  case inr.inr.inr.inr.inr.inr.inr.inr => exact .inr herror
  all_goals exact .inl ⟨by simp only [List.mem_cons]; omega, _, hd⟩

end Sys2Proof

namespace Sys2Proof.Machine

/-! ### STATUS (10_state R22, R39) -/

theorem getLsbD_flagBit (b : Bool) {n : Nat} (hn : n < 32) (j : Nat) :
    (flagBit b n).getLsbD j = (b && decide (j = n)) := by
  cases b with
  | false => exact BitVec.getLsbD_zero
  | true =>
    rw [flagBit, if_pos rfl, BitVec.getLsbD_shiftLeft, BitVec.getLsbD_one, Bool.true_and, Bool.eq_iff_iff]
    simp only [Bool.and_eq_true, Bool.not_eq_true', decide_eq_true_eq, decide_eq_false_iff_not]
    omega

theorem State.getLsbD_statusWord (s : State) (j : Nat) :
    s.statusWord.getLsbD j =
      if j = 0 then s.faulted else if j = 1 then s.crcOk else if j = 2 then s.rdv else false := by
  rw [State.statusWord, BitVec.getLsbD_or, BitVec.getLsbD_or, getLsbD_flagBit _ (by decide),
    getLsbD_flagBit _ (by decide), getLsbD_flagBit _ (by decide)]
  by_cases h0 : j = 0
  · simp [h0]
  · by_cases h1 : j = 1
    · simp [h1]
    · simp [h0, h1, Bool.and_comm]

/-- FAULTED shows ERR ≠ 0 in every state. -/
theorem State.faulted_iff (s : State) : s.statusWord.getLsbD 0 = true ↔ s.err ≠ 0 := by
  rw [State.getLsbD_statusWord, if_pos rfl]
  exact decide_eq_true_iff

/-! ### What a step can do (00_scope R14) -/

/-- With no transaction left the block is idle. -/
theorem step_nil {s : State} (h : s.script = []) : step s = .next s := by unfold step; rw [h]

/-- A transaction only answers the host, issues a command word, stores at a place, or resets. -/
theorem step_outcomes {s : State} {x : Txn} {rest : List Txn} (h : s.script = x :: rest) :
    (∃ ans, step s = .next ((s.popped rest).answered ans)) ∨
    (∃ d, x = .write 0 d ∧ d.toNat < 2 ^ 16 ∧ step s = issue (d.setWidth 16) ((s.popped rest).answered .writeDone)) ∨
    (∃ a d t, x = .write a d ∧ a ≠ 0 ∧ (s.popped rest).placeWrite Config.params (place Config.params a) d = some t ∧
      step s = .next (t.answered .writeDone)) ∨
    (x = .reset ∧ step s = .next (s.popped rest).afterReset) := by
  cases x with
  | read a => exact .inl ⟨_, step_read h⟩
  | reset => exact .inr (.inr (.inr ⟨rfl, step_cons h⟩))
  | write a d =>
    by_cases hacc : rejectsWrite a.toNat d.toNat
    · exact .inl ⟨_, step_write_rejected h hacc⟩
    · by_cases ha : a = 0
      · subst ha
        have hd : d.toNat < 2 ^ 16 := Nat.not_le.1 (mt (rejectsWrite_zero_iff _).2 hacc)
        exact .inr (.inl ⟨d, rfl, hd, step_cmd h hd⟩)
      · obtain ⟨t, ht, hstep⟩ := step_write_accepted h ha hacc
        exact .inr (.inr (.inl ⟨a, d, t, rfl, ha, ht, hstep⟩))

/-! ### What a command can do -/

/-- What a command that answers a next state has done to the state `s`: one case per kind of write. -/
inductive Effect (s : State) : Instr → State → Prop
  /-- Any command in the Failed state. -/
  | discarded (i : Instr) (hs : s.err ≠ 0) : Effect s i s
  /-- NOP. -/
  | idle : Effect s .nop s
  /-- CRCINIT. -/
  | initialised : Effect s .crcinit { s with acc := crcInit }
  /-- CRCUPD. -/
  | updated (b : Byte) : Effect s (.crcupd b) { s with acc := crcByte s.acc b }
  /-- VERIFY. -/
  | verified (sel : Sel) (a : Half) (ok : Bool) : Effect s (.verify sel) { s with acc := a, crcOk := ok }
  /-- BUILD with COUNT = 0. -/
  | countZero : Effect s .build { s with tlen := 0, err := 1 }
  /-- BUILD with COUNT not 0. -/
  | built (hc : s.count ≠ 0) (hn : s.plen.toNat ≤ 1016) : Effect s .build s.buildFrame
  /-- PARSE that raises a fault. -/
  | unparsed (a : Half) (ok : Bool) (e : BitVec 3) (he : e ∈ [2, 3, 4]) :
    Effect s .parse { s.noReadings with acc := a, crcOk := ok, err := e }
  /-- PARSE that succeeds. -/
  | decoded (hr : s.rlen.toNat ≤ 1024) (hn : 3 + s.byteCount + 2 ≤ s.rlen.toNat) (heven : s.byteCount % 2 = 0) :
    Effect s .parse (s.decodedResponse s.byteCount)
  /-- CLRF. -/
  | cleared : Effect s .clrf { s with err := 0 }

/-- On this hardware, which makes no check 3. -/
theorem parseCmd_effect {s t : State} (h : parseCmd Config.params s = .next t) : Effect s .parse t := by
  obtain ⟨_, rfl⟩ | ⟨_, _, _, rfl⟩ | ⟨hr, hn, h⟩ := parseCmd_next h
  · exact .unparsed s.acc false 2 (by decide)
  · exact .unparsed s.acc false 3 (by decide)
  · obtain ⟨hstrict, _⟩ | ⟨_, _, rfl⟩ | ⟨_, heven, rfl⟩ := parseDeclared_next h
    · cases hstrict
    · exact .unparsed _ _ 4 (by decide)
    · exact .decoded hr hn heven

/-- A command that answers a next state was discarded or made the writes of its own kind. -/
theorem exec_effect {i : Instr} {s t : State} (h : exec i s = .next t) : Effect s i t := by
  have hrun {i : Instr} {k : Result} (h : s.unlessFailed k = .next t) (hk : k = .next t → Effect s i t) :
      Effect s i t := by
    obtain ⟨hs, rfl⟩ | ⟨_, h⟩ := State.unlessFailed_next h
    · exact .discarded i hs
    · exact hk h
  cases i with
  | nop => cases (exec_nop s).symm.trans h; exact .idle
  | crcinit => exact hrun h fun h => by cases h; exact .initialised
  | crcupd b => exact hrun h fun h => by cases h; exact .updated b
  | verify sel =>
    refine hrun h fun h => ?_
    obtain ⟨_, rfl⟩ | ⟨_, _, rfl⟩ := verifyFrame_next h
    · exact .verified sel s.acc false
    · exact .verified sel _ _
  | build =>
    refine hrun h fun h => ?_
    obtain ⟨_, rfl⟩ | ⟨hc, hn, rfl⟩ := buildCmd_next h
    · exact .countZero
    · exact .built hc hn
  | parse => exact hrun h parseCmd_effect
  | clrf => cases h; exact .cleared

/-! ### TX after BUILD (41_frame_builder R151) -/

theorem State.written_buildFrame (s : State) {i : Nat} (hi : i < s.requestFrame.length) :
    s.buildFrame.written .tx i = s.requestFrame[i]? := by
  have hbase : Buf.base .tx + i = 0x0800 + i := rfl
  rw [State.written, hbase, State.get_buildFrame_mem, if_pos (by omega), Nat.add_sub_cancel_left]

theorem State.buildFrame_tlen_toNat (s : State) : s.buildFrame.tlen.toNat = 8 + s.plen.toNat := by
  have hlt := s.plen.isLt
  rw [State.buildFrame_eq, BitVec.toNat_ofNat]
  omega

/-! ### The invariants, update by update (10_state R44) -/

theorem Memory.mapped_memWriteSeq {p : Params} {s : State} (h : Memory.mapped p s.mem) (b : Buf) {i : Nat}
    {vs : List Byte} (hlen : i + vs.length ≤ Buf.size p b) : Memory.mapped p (s.memWriteSeq b i vs).mem := by
  intro c hc
  obtain hnew | hold := State.mem_memWriteSeq hc
  · exact ⟨b, by omega, by omega⟩
  · exact h c hold

namespace Inv

variable {p : Params} {s : State} (h : Inv p s)
include h

theorem withAcc (a : Half) (ok : Bool) : Inv p { s with acc := a, crcOk := ok } :=
  { h with faulted_iff := State.faulted_iff _ }

theorem withErr {e : BitVec 3} (hused : e ≠ 7) (hstrict : e = 5 → p.strictCrc = true) : Inv p { s with err := e } :=
  { h with err_used := hused, err_strict := hstrict, faulted_iff := State.faulted_iff _ }

theorem withOperands (u f : Byte) (a c : Half) : Inv p { s with unit := u, func := f, addr := a, count := c } :=
  { h with faulted_iff := State.faulted_iff _ }

theorem withPlen {n : BitVec 10} (hn : n.toNat ≤ p.paySize) : Inv p { s with plen := n } :=
  { h with plen_le := hn, faulted_iff := State.faulted_iff _ }

theorem withRlen {n : BitVec 11} (hn : n.toNat ≤ p.rxSize) : Inv p { s with rlen := n } :=
  { h with rlen_le := hn, faulted_iff := State.faulted_iff _ }

/-- The model's own fields are in no invariant. -/
theorem withHost (xs : List Txn) (a : Answer) (c : Nat) : Inv p { s with script := xs, answer := a, freeCtr := c } :=
  { h with faulted_iff := State.faulted_iff _ }

/-- With no frame in TX, nothing of TX need be written. -/
theorem withoutFrame : Inv p { s with tlen := 0 } :=
  { h with
    tlen_range := .inl rfl
    tx_written := fun i hi => absurd hi (Nat.not_lt_zero i)
    faulted_iff := State.faulted_iff _ }

theorem noReadings : Inv p s.noReadings :=
  { h with rdcnt_le := Nat.zero_le _, rd_written := nofun, faulted_iff := State.faulted_iff _ }

/-- A write within a buffer leaves every written byte of TX written. -/
theorem memWrite {b : Buf} {i : Nat} (v : Byte) (hi : i < Buf.size p b) : Inv p (s.memWrite b i v) :=
  { h with
    tx_written := fun j hj => Sparse.isSome_get_set _ _ _ _ (h.tx_written j hj)
    mem_wf := Sparse.rising_set _ _ h.mem_wf
    mem_mapped := Memory.mapped_memWriteSeq h.mem_mapped b (vs := [v]) hi
    faulted_iff := State.faulted_iff _ }

/-- BUILD writes TX up to the new TLEN. -/
theorem buildFrame : Inv p s.buildFrame := by
  have hplen := h.plen_le
  have hlen := s.buildFrame_tlen_toNat
  have hfit : 0 + s.requestFrame.length ≤ Buf.size p .tx := by
    rw [State.requestFrame_length]; simp only [Buf.size, Params.txSize]; omega
  have hwritten : ∀ i, i < s.buildFrame.tlen.toNat → (s.buildFrame.written .tx i).isSome = true := by
    intro i hi
    rw [hlen, ← State.requestFrame_length] at hi
    rw [State.written_buildFrame s hi, List.getElem?_eq_getElem hi, Option.isSome_some]
  have hrange : 8 ≤ s.buildFrame.tlen.toNat ∧ s.buildFrame.tlen.toNat ≤ p.txSize := by
    rw [hlen]; unfold Params.txSize; omega
  rw [State.buildFrame_eq_requestFrame] at hwritten hrange ⊢
  exact { h with
    tlen_range := .inr hrange
    tx_written := hwritten
    mem_wf := State.memWriteSeq_mem_wf _ _ _ h.mem_wf
    mem_mapped := Memory.mapped_memWriteSeq h.mem_mapped .tx hfit
    faulted_iff := State.faulted_iff _ }

/-- PARSE writes RD up to the new RDCNT. -/
theorem decodedResponse {n : Nat} (hn : n < 256) : Inv p (s.decodedResponse n) := by
  have hget := s.writtenRd_decodedResponse n
  have hcount := s.decodedResponse_rdcnt_toNat hn
  have hwf : Sparse.rising (s.decodedResponse n).rd = true := State.writeRdSeq_rd_wf 0 _ h.rd_wf
  have hmapped : ∀ e ∈ (s.decodedResponse n).rd, e.1 < rdMax := by
    intro e he
    obtain ⟨_, hlt⟩ | hold := State.mem_writeRdSeq he
    · rw [readingsOf_length] at hlt; unfold rdMax; omega
    · exact h.rd_mapped e hold
  have hmax : (s.decodedResponse n).rdcnt.toNat ≤ rdMax := by rw [hcount]; unfold rdMax; omega
  have hwritten : ∀ k, k < (s.decodedResponse n).rdcnt.toNat → ((s.decodedResponse n).writtenRd k).isSome = true := by
    intro k hk
    rw [hcount] at hk
    rw [hget, if_pos hk, Option.isSome_some]
  rw [State.decodedResponse_frame] at hwf hmapped hmax hwritten ⊢
  exact { h with
    rdcnt_le := hmax
    rd_written := fun _ => hwritten
    rd_wf := hwf
    rd_mapped := hmapped
    faulted_iff := State.faulted_iff _ }

end Inv

/-! ### The invariants, step by step -/

/-- With any script, the state after `Reset` has empty memories and lengths 0. -/
theorem reset_inv (p : Params) (xs : List Txn) (c : Nat) :
    Inv p { State.reset with script := xs, freeCtr := c } where
  plen_le := Nat.zero_le _
  rlen_le := Nat.zero_le _
  tlen_range := .inl rfl
  rdcnt_le := Nat.zero_le _
  err_used := (by decide : (0 : BitVec 3) ≠ 7)
  err_strict := nofun
  faulted_iff := State.faulted_iff _
  tx_written := fun i hi => absurd hi (Nat.not_lt_zero i)
  rd_written := nofun
  mem_wf := rfl
  mem_mapped := nofun
  rd_wf := rfl
  rd_mapped := nofun

theorem exec_keeps_inv {i : Instr} {s t : State} (hinv : Inv Config.params s) (h : exec i s = .next t) :
    Inv Config.params t := by
  cases exec_effect h with
  | discarded | idle => exact hinv
  | initialised => exact hinv.withAcc crcInit s.crcOk
  | updated b => exact hinv.withAcc (crcByte s.acc b) s.crcOk
  | verified _ a ok => exact hinv.withAcc a ok
  | countZero => exact hinv.withoutFrame.withErr (by decide) nofun
  | built => exact hinv.buildFrame
  | unparsed a ok e he =>
    have hused : e ≠ 7 := by rintro rfl; exact absurd he (by decide)
    have hstrict : e ≠ 5 := by rintro rfl; exact absurd he (by decide)
    exact (hinv.noReadings.withAcc a ok).withErr hused fun h => absurd h hstrict
  | decoded => exact hinv.decodedResponse s.byteCount_lt
  | cleared => exact hinv.withErr (by decide) nofun

theorem issue_keeps_inv {w : Command} {s t : State} (hinv : Inv Config.params s) (h : issue w s = .next t) :
    Inv Config.params t := by
  obtain ⟨i, _, hexec⟩ | ⟨e, _, ⟨_, rfl⟩ | ⟨_, rfl⟩⟩ := issue_next h
  · exact exec_keeps_inv hinv hexec
  · exact hinv
  · exact hinv.withErr (by decide) nofun

/-- What passes the check of a length register is within its bound (10_state R46). -/
theorem toNat_setWidth_le_of_check {w m : Nat} {d : Data} (h : (fits w d && decide (d.toNat ≤ m)) = true) :
    (d.setWidth w).toNat ≤ m := by
  rw [Bool.and_eq_true, decide_eq_true_iff] at h
  obtain ⟨_, hle⟩ := h
  rw [BitVec.toNat_setWidth]
  exact (Nat.mod_le _ _).trans hle

/-- An accepted register write keeps the invariants. -/
theorem regWrite_keeps_inv {s t : State} {r : Reg} {d : Data} (hinv : Inv Config.params s)
    (h : s.regWrite Config.params r d = some t) : Inv Config.params t := by
  cases r with
  | unit | func | addr | count =>
    obtain ⟨_, hv⟩ := Option.ite_none_right_eq_some.1 h
    cases hv
    exact hinv.withOperands _ _ _ _
  | plen =>
    obtain ⟨hcheck, hv⟩ := Option.ite_none_right_eq_some.1 h
    cases hv
    exact hinv.withPlen (toNat_setWidth_le_of_check hcheck)
  | rlen =>
    obtain ⟨hcheck, hv⟩ := Option.ite_none_right_eq_some.1 h
    cases hv
    exact hinv.withRlen (toNat_setWidth_le_of_check hcheck)
  | cmd | status | err | acc | tlen | rdcnt => cases h

/-- A store at a place of the address map keeps the memories inside the map. -/
theorem placeWrite_keeps_inv {s t : State} {a : Index} {d : Data} (hinv : Inv Config.params s)
    (h : s.placeWrite Config.params (place Config.params a) d = some t) : Inv Config.params t := by
  obtain ⟨r, hp, _⟩ | ⟨hp, hl, hu⟩ | ⟨hp, _⟩ | ⟨hp, hl, hu⟩ | ⟨hp, _⟩ | ⟨hp, _⟩ | ⟨hp, _⟩ :=
    place_cases a <;> rw [hp] at h
  · exact regWrite_keeps_inv hinv h
  · obtain ⟨_, hv⟩ := Option.ite_none_right_eq_some.1 h
    cases hv
    exact hinv.memWrite _ (by show _ < 1016; omega)
  · cases h
  · obtain ⟨_, hv⟩ := Option.ite_none_right_eq_some.1 h
    cases hv
    exact hinv.memWrite _ (by show _ < 1024; omega)
  all_goals cases h

theorem step_keeps_inv {s t : State} (hinv : Inv Config.params s) (h : step s = .next t) : Inv Config.params t := by
  cases hscript : s.script with
  | nil => cases (step_nil hscript).symm.trans h; exact hinv
  | cons x rest =>
    obtain ⟨ans, hstep⟩ | ⟨d, _, _, hstep⟩ | ⟨a, d, u, _, _, hu, hstep⟩ | ⟨_, hstep⟩ := step_outcomes hscript
    · cases hstep.symm.trans h
      exact hinv.withHost _ _ _
    · exact issue_keeps_inv (hinv.withHost _ _ _) (hstep.symm.trans h)
    · cases hstep.symm.trans h
      exact (placeWrite_keeps_inv (hinv.withHost _ _ _) hu).withHost _ _ _
    · cases hstep.symm.trans h
      exact reset_inv _ _ _

/-! ### Every transaction completes (70_reset R247) -/

/-- The number of bytes a command takes a buffer to hold. -/
def State.bufLength (s : State) : Buf → Nat
  | .pay => s.plen.toNat
  | .tx => s.tlen.toNat
  | .rx => s.rlen.toNat

/-- `k` is a next state, or the model's stop at a buffer whose length register reaches past it (log 8). -/
def CompletesOrStops (s : State) (k : Result) : Prop :=
  (∃ t, k = .next t) ∨
    ∃ b, k = .fault (.noSuchLocation b (s.bufLength b)) ∧ Buf.size Config.params b < s.bufLength b

namespace CompletesOrStops

variable {s : State} {k l : Result}

theorem next (t : State) : CompletesOrStops s (.next t) := .inl ⟨t, rfl⟩

theorem withinBuffer (b : Buf) (hk : CompletesOrStops s k) :
    CompletesOrStops s (withinBuffer Config.params b (s.bufLength b) k) := by
  by_cases hn : s.bufLength b ≤ Buf.size Config.params b
  · rwa [withinBuffer_of_le k hn]
  · exact .inr ⟨b, if_neg hn, Nat.not_le.1 hn⟩

theorem ite {c : Prop} [Decidable c] (hk : CompletesOrStops s k) (hl : CompletesOrStops s l) :
    CompletesOrStops s (if c then k else l) := by
  split
  · exact hk
  · exact hl

end CompletesOrStops

theorem verifyFrame_completesOrStops (s : State) (sel : Sel) :
    CompletesOrStops s (verifyFrame Config.params (selBuf sel) (s.selLength sel) s) := by
  cases sel
  · exact .ite (.next _) (.withinBuffer .tx (.next _))
  · exact .ite (.next _) (.withinBuffer .rx (.next _))

theorem buildCmd_completesOrStops (s : State) : CompletesOrStops s (buildCmd Config.params s) :=
  .ite (.next _) (.withinBuffer .pay (.next _))

theorem parseDeclared_completesOrStops (p : Params) (n : Nat) (s : State) :
    CompletesOrStops s (parseDeclared p n s) :=
  .ite (.next _) (.ite (.next _) (.next _))

theorem parseCmd_completesOrStops (s : State) : CompletesOrStops s (parseCmd Config.params s) :=
  .ite (.next _) (.withinBuffer .rx (.ite (.next _) (parseDeclared_completesOrStops _ s.byteCount s)))

/-- A command in the Failed state completes; outside it, by its branches. -/
theorem exec_completesOrStops (i : Instr) (s : State) : CompletesOrStops s (exec i s) := by
  have hrun {k : Result} (hk : CompletesOrStops s k) : CompletesOrStops s (s.unlessFailed k) := .ite hk (.next s)
  cases i with
  | nop => exact hrun (.next _)
  | crcinit => exact hrun (.next _)
  | crcupd b => exact hrun (.next _)
  | verify sel => exact hrun (verifyFrame_completesOrStops s sel)
  | build => exact hrun (buildCmd_completesOrStops s)
  | parse => exact hrun (parseCmd_completesOrStops s)
  | clrf => exact .next _

theorem Inv.bufLength_le {p : Params} {s : State} (h : Inv p s) (b : Buf) : s.bufLength b ≤ Buf.size p b := by
  cases b with
  | pay => exact h.plen_le
  | rx => exact h.rlen_le
  | tx =>
    obtain htlen | ⟨_, htlen⟩ := h.tlen_range
    · rw [State.bufLength, htlen]; exact Nat.zero_le _
    · exact htlen

/-- Within the invariants no command stops. -/
theorem exec_completes (i : Instr) {s : State} (hinv : Inv Config.params s) : ∃ t, exec i s = .next t := by
  obtain h | ⟨b, _, hlt⟩ := exec_completesOrStops i s
  · exact h
  · exact absurd (hinv.bufLength_le b) (Nat.not_le.2 hlt)

theorem issue_completes (w : Command) {s : State} (hinv : Inv Config.params s) : ∃ t, issue w s = .next t := by
  cases hd : decode w with
  | ok i => rw [issue_of_ok s hd]; exact exec_completes i hinv
  | error e =>
    rw [issue_of_error s hd]
    by_cases hs : s.err = 0
    · exact ⟨_, State.unlessFailed_of_ok _ hs⟩
    · exact ⟨_, State.unlessFailed_of_failed _ hs⟩

theorem step_completes {s : State} (hinv : Inv Config.params s) : ∃ t, step s = .next t := by
  cases hscript : s.script with
  | nil => exact ⟨s, step_nil hscript⟩
  | cons x rest =>
    obtain ⟨_, hstep⟩ | ⟨d, _, _, hstep⟩ | ⟨_, _, _, _, _, _, hstep⟩ | ⟨_, hstep⟩ := step_outcomes hscript
    · exact ⟨_, hstep⟩
    · rw [hstep]
      exact issue_completes _ (hinv.withHost _ _ _)
    · exact ⟨_, hstep⟩
    · exact ⟨_, hstep⟩

/-! ### The byte step as a linear map (40_crc R124, R132) -/

theorem crcBit_iterate_xor (n : Nat) (a b : Half) : crcBit^[n] (a ^^^ b) = crcBit^[n] a ^^^ crcBit^[n] b := by
  induction n generalizing a b with
  | zero => rfl
  | succ n ih => rw [Function.iterate_succ_apply, crcBit_xor, ih]; rfl

/-- The two bytes of a half, apart. -/
theorem joinBytes_eq_xor (hi lo : Byte) : joinBytes hi lo = joinBytes hi 0 ^^^ lo.setWidth 16 := by
  obtain ⟨hlow, hhigh⟩ := (eq_joinBytes_iff_bytes (joinBytes hi 0) hi 0).1 rfl
  rw [xor_setWidth_eq, hlow, hhigh]
  exact congrArg (joinBytes hi) BitVec.zero_xor.symm

theorem highByte_setWidth (a : Half) : (highByte a).setWidth 16 = a >>> 8 := by
  have hlt := (highByte a).isLt
  apply BitVec.eq_of_toNat_eq
  rw [BitVec.toNat_setWidth, Nat.mod_eq_of_lt (by omega), highByte_toNat, BitVec.toNat_ushiftRight,
    Nat.shiftRight_eq_div_pow]

/-- The high byte of the accumulator is shifted down; a table of the low byte's steps does the rest. -/
theorem crcByte_eq_table (a : Half) (b : Byte) : crcByte a b = (a >>> 8) ^^^ crcByte 0 (lowByte a ^^^ b) := by
  calc crcByte a b
    _ = crcBit^[8] (joinBytes (highByte a) 0 ^^^ (lowByte a ^^^ b).setWidth 16) := by
      rw [← joinBytes_eq_xor, ← xor_setWidth_eq]; rfl
    _ = crcBit^[8] (joinBytes (highByte a) 0) ^^^ crcBit^[8] ((lowByte a ^^^ b).setWidth 16) :=
      crcBit_iterate_xor 8 _ _
    _ = (a >>> 8) ^^^ crcByte 0 (lowByte a ^^^ b) := by
      congr 1
      · exact (crcBit_eight_high (highByte a)).trans (highByte_setWidth a)
      · simp only [crcByte, BitVec.ofNat_eq_ofNat, BitVec.zero_xor]; rfl

theorem crcByte_zero_zero : crcByte 0 0#8 = 0#16 := by decide

/-- A byte equal to the accumulator's low byte shifts the accumulator down. -/
theorem crcByte_lowByte (a : Half) : crcByte a (lowByte a) = a >>> 8 := by
  rw [crcByte_eq_table, BitVec.xor_self, crcByte_zero_zero, BitVec.xor_zero]

/-- The accumulator run on over its own two bytes, low byte first, ends at zero. -/
theorem foldl_crcByte_le16 (a : Half) : (le16 a).foldl crcByte a = 0 := by
  have hlow : highByte a = lowByte (a >>> 8) := by
    apply BitVec.eq_of_toNat_eq
    rw [highByte_toNat, lowByte_toNat, BitVec.toNat_ushiftRight, Nat.shiftRight_eq_div_pow]
    omega
  have hzero : a >>> 8 >>> 8 = 0 := by
    have hlt := a.isLt
    apply BitVec.eq_of_toNat_eq
    rw [BitVec.toNat_ushiftRight, BitVec.toNat_ushiftRight, Nat.shiftRight_eq_div_pow, Nat.shiftRight_eq_div_pow]
    show _ = 0
    omega
  calc (le16 a).foldl crcByte a
    _ = crcByte (crcByte a (lowByte a)) (highByte a) := rfl
    _ = a >>> 8 >>> 8 := by rw [crcByte_lowByte, hlow, crcByte_lowByte]
    _ = 0 := hzero

/-! ### Streams (40_crc R128) -/

/-- A word 0x0200 to 0x02FF is CRCUPD of its low byte. -/
theorem decode_crcupd_of_range {d : Data} (hl : 0x0200 ≤ d.toNat) (hu : d.toNat < 0x0300) :
    decode (d.setWidth 16) = .ok (.crcupd (d.extractLsb' 0 8)) := by
  have hop : (0x0200 : Command).toNat = 512 := rfl
  refine decode_eq_ok_iff.2 (BitVec.eq_of_toNat_eq ?_)
  simp only [encode, BitVec.toNat_add, BitVec.toNat_setWidth, BitVec.extractLsb'_toNat, Nat.shiftRight_zero]
  omega

/-- The writes of a stream: elsewhere than to CMD, NOP, and CRCUPD. -/
theorem streamed_write_cases {a : Index} {d : Data} {bs : List Byte} (h : streamed (.write a d) = some bs) :
    (a ≠ 0 ∧ bs = []) ∨ (a = 0 ∧ d = 0 ∧ bs = []) ∨
      (a = 0 ∧ (0x0200 ≤ d.toNat ∧ d.toNat < 0x0300) ∧ bs = [d.extractLsb' 0 8]) := by
  simp only [streamed] at h
  by_cases ha : a = 0
  · split_ifs at h with hnop hupd <;> cases h
    · exact .inr (.inl ⟨ha, hnop.resolve_left (not_not.2 ha), rfl⟩)
    · exact .inr (.inr ⟨ha, hupd, rfl⟩)
  · rw [if_pos (.inl ha)] at h
    cases h
    exact .inl ⟨ha, rfl⟩

/-- A transaction of a stream, outside the Failed state, feeds ACC its bytes. -/
theorem step_streamed {s : State} {x : Txn} {rest : List Txn} {bs : List Byte} (hs : s.err = 0)
    (h : s.script = x :: rest) (hx : streamed x = some bs) :
    ∃ t, step s = .next t ∧ t.err = 0 ∧ t.acc = bs.foldl crcByte s.acc ∧ t.script = rest := by
  cases x with
  | read a => cases hx; exact ⟨_, step_read h, hs, rfl, rfl⟩
  | reset => cases hx
  | write a d =>
    obtain ⟨ha, rfl⟩ | ⟨rfl, rfl, rfl⟩ | ⟨rfl, ⟨hl, hu⟩, rfl⟩ := streamed_write_cases hx
    · obtain ⟨herr, hacc, hscript, _⟩ := storeAt_keeps Config.params (s.popped rest) (place Config.params a) d
      exact ⟨_, step_write h ha, herr.trans hs, hacc, hscript⟩
    · exact ⟨_, (step_cmd h (by decide)).trans (exec_nop _), hs, rfl, rfl⟩
    · have hstep := step_cmd h (by omega)
      rw [issue_of_ok _ (decode_crcupd_of_range hl hu)] at hstep
      exact ⟨_, hstep.trans (State.unlessFailed_of_ok _ hs), hs, rfl, rfl⟩

/-- A stream feeds ACC the bytes of its transactions, in order. -/
theorem runs_streamed {s : State} {xs rest : List Txn} (hs : s.err = 0) (h : s.script = xs ++ rest)
    (hxs : ∀ x ∈ xs, (streamed x).isSome = true) :
    ∃ t, runs xs.length s = .next t ∧
      t.acc = (xs.flatMap fun x => (streamed x).getD []).foldl crcByte s.acc ∧ t.script = rest := by
  induction xs generalizing s with
  | nil => exact ⟨s, rfl, rfl, h⟩
  | cons x xs ih =>
    obtain ⟨hx, hxs⟩ := List.forall_mem_cons.1 hxs
    obtain ⟨bs, hbs⟩ := Option.isSome_iff_exists.1 hx
    obtain ⟨t, hstep, ht, hacc, hscript⟩ := step_streamed hs h hbs
    obtain ⟨u, hrun, hu, hrest⟩ := ih ht hscript hxs
    refine ⟨u, (runs_succ hstep).trans hrun, ?_, hrest⟩
    rw [hu, hacc, List.flatMap_cons, hbs, List.foldl_append]
    rfl

/-! ### A frame and its check (41_frame_builder R152, 40_crc R131) -/

/-- Whatever ends with its checksum, low byte first, passes the frame check. -/
theorem frameOk_append_le16 (body : List Byte) : frameOk (body ++ le16 (checksum body)) = true := by
  rw [le16, frameOk_append, joinBytes_high_low, decide_eq_true rfl]

/-- After BUILD, a read of TX up to TLEN gives the frame. -/
theorem State.slice_buildFrame (s : State) (site : ReadSite) :
    s.buildFrame.slice site .tx 0 (8 + s.plen.toNat) = s.requestFrame := by
  rw [← State.requestFrame_length]
  refine State.slice_of_written (fun j hj => ?_) site
  rw [Nat.zero_add, State.written_buildFrame s hj]

/-- VERIFY TX over the frame BUILD has left finds its checksum, which ACC holds already. -/
theorem exec_verify_buildFrame {s : State} (he : s.err = 0) (hn : s.plen.toNat ≤ 1016) :
    exec (.verify .tx) s.buildFrame = .next { s.buildFrame with crcOk := true } := by
  have hlen : s.buildFrame.selLength .tx = 8 + s.plen.toNat := s.buildFrame_tlen_toNat
  have herr : s.buildFrame.err = 0 := by rw [State.buildFrame_eq]; exact he
  have hbody : s.buildFrame.slice .frame .tx 0 (8 + s.plen.toNat - 2) = s.requestBody := by
    rw [← s.requestFrame_take, ← State.slice_buildFrame s .frame, State.slice_take _ _ _ _ _ _ (by omega)]
    congr 1
    omega
  have hacc : s.buildFrame.acc = checksum s.requestBody := by rw [State.buildFrame_eq]
  rw [exec_verify_of_le herr (by omega) (by omega), crcMatches_slice _ _ (by omega), hlen, selBuf, hbody,
    State.slice_buildFrame, State.requestFrame, frameOk_append_le16, ← hacc]

/-! ### What `parse_response` reads (42_response_parser R181, R182) -/

/-- The readings are made of the register data bytes, which stand at offsets 3 to 3 + n. -/
theorem readingsOf_congr (p : Params) (start : Half) (n : Nat) {f g : Nat → Byte}
    (h : ∀ i, 3 ≤ i → i < 3 + n → f i = g i) : readingsOf p start n f = readingsOf p start n g := by
  refine List.map_congr_left fun k hk => ?_
  have hk : k < n / 2 := by simpa using hk
  rw [h _ (by omega) (by omega), h _ (by omega) (by omega)]

theorem respCrcOk_append {raw : List Byte} {n : Nat} (h : 3 + n + 2 ≤ raw.length) (extra : List Byte) :
    respCrcOk (raw ++ extra) n = respCrcOk raw n := by
  rw [respCrcOk, List.take_append_of_le_length (by omega), List.getD_append _ _ _ _ (by omega),
    List.getD_append _ _ _ _ (by omega)]
  rfl

/-- A response of its declared length or more is read no further. -/
theorem parseResponse_append (p : Params) {raw : List Byte} (start : Half) (h5 : 5 ≤ raw.length)
    (h : 3 + (raw.getD 2 0).toNat + 2 ≤ raw.length) (extra : List Byte) :
    parseResponse p (raw ++ extra) start = parseResponse p raw start := by
  have hn : (raw ++ extra).getD 2 0 = raw.getD 2 0 := List.getD_append _ _ _ _ (by omega)
  have hlen : raw.length ≤ (raw ++ extra).length := by simp
  rw [parseResponse_of_declared p (raw ++ extra) start _ rfl (by omega) (by rw [hn]; omega),
    parseResponse_of_declared p raw start _ rfl h5 h, hn, respCrcOk_append h,
    readingsOf_congr p start _ fun i _ hi => List.getD_append raw extra 0 i (by omega)]

/-- Past the first two bytes, the byte at an offset does not depend on them. -/
theorem getD_cons_cons (u f u' f' : Byte) (rest : List Byte) {i : Nat} (hi : 2 ≤ i) :
    (u :: f :: rest).getD i 0 = (u' :: f' :: rest).getD i 0 := by
  obtain ⟨j, rfl⟩ := Nat.exists_eq_add_of_le' hi
  rfl

/-- Only the checksum, which a strict parser alone compares, covers the unit id and the function code. -/
theorem parseResponse_cons_cons (p : Params) (hp : p.strictCrc = false) (u f u' f' : Byte) (rest : List Byte)
    (start : Half) : parseResponse p (u :: f :: rest) start = parseResponse p (u' :: f' :: rest) start := by
  have hreadings (n : Nat) : (readingsOf p start n fun i => (u :: f :: rest).getD i 0) =
      readingsOf p start n fun i => (u' :: f' :: rest).getD i 0 :=
    readingsOf_congr p start n fun i hi _ => getD_cons_cons u f u' f' rest (by omega)
  unfold parseResponse
  simp only [hp, Bool.false_and, hreadings]
  rfl

/-! ### PARSE over a written response (42_response_parser R183) -/

section
variable {s : State} {raw : List Byte} (hw : ∀ i, i < raw.length → s.written .rx i = raw[i]?)
include hw

theorem memRead_of_response (site : ReadSite) {i : Nat} (hi : i < raw.length) :
    s.memRead site .rx i = raw.getD i 0 := by
  rw [List.getD_eq_getElem _ _ hi]
  exact State.memRead_of_written (by rw [hw i hi, List.getElem?_eq_getElem hi]) site

theorem slice_of_response (site : ReadSite) {n : Nat} (hn : n ≤ raw.length) : s.slice site .rx 0 n = raw.take n := by
  rw [← State.slice_take s site .rx 0 raw.length n hn,
    State.slice_of_written (fun j hj => by rw [Nat.zero_add, hw j hj])]

theorem byteCount_of_response (h5 : 5 ≤ raw.length) : s.byteCount = (raw.getD 2 0).toNat := by
  rw [State.byteCount, memRead_of_response hw _ (by omega)]

/-- The comparison PARSE stores is check 3 of `parse_response`. -/
theorem checkedResponse_crcOk_of_response {n : Nat} (hn : 3 + n + 2 ≤ raw.length) :
    (s.checkedResponse n).crcOk = respCrcOk raw n := by
  rw [State.checkedResponse, slice_of_response hw _ (by omega), memRead_of_response hw _ (by omega),
    memRead_of_response hw _ (by omega), respCrcOk, decide_eq_decide.2 (eq_joinBytes_iff_bytes _ _ _),
    Bool.decide_and]
  rfl

theorem readingsOf_of_response (p : Params) {n : Nat} (hn : 3 + n + 2 ≤ raw.length) :
    readingsOf p s.addr n (s.memRead .data .rx) = readingsOf p s.addr n fun i => raw.getD i 0 :=
  readingsOf_congr p _ _ fun _ _ hi => memRead_of_response hw _ (by omega)

end

/-- PARSE past check 3, with an even byte count, for every value of the parameters. -/
theorem parse_of_even (p : Params) {s : State} (he : s.err = 0) (hr : s.rlen.toNat ≤ p.rxSize) (h5 : 5 ≤ s.rlen.toNat)
    (hn : 3 + s.byteCount + 2 ≤ s.rlen.toNat) (hok : p.strictCrc = true → (s.checkedResponse s.byteCount).crcOk = true)
    (heven : ¬ s.byteCount % 2 = 1) :
    s.unlessFailed (parseCmd p s) =
      .next { (s.checkedResponse s.byteCount).writeRdSeq 0 (readingsOf p s.addr s.byteCount (s.memRead .data .rx)) with
        rdcnt := BitVec.ofNat 7 (s.byteCount / 2), rdv := true } := by
  rw [State.unlessFailed_of_ok _ he, parseCmd_of_declared p s h5 hr hn, parseDeclared_eq,
    if_neg (by simpa using hok), if_neg heven]

/-- `t` is what PARSE may leave from `s` when `parse_response` gives the readings, or the fault. -/
def ParseOutcome (s t : State) : Except Cause (List Reading) → Prop
  | .ok rs => t.err = 0 ∧ t.rdv = true ∧ t.rdcnt.toNat = rs.length ∧ ∀ k, k < rs.length → t.writtenRd k = rs[k]?
  | .error c => t.err = c.code ∧ t.rdv = false ∧ t.rdcnt = 0 ∧ t.rd = s.rd

/-- PARSE leaves what `parse_response` gives, check by check. -/
theorem parse_refines (p : Params) {s : State} {raw : List Byte} (he : s.err = 0) (hr : s.rlen.toNat ≤ p.rxSize)
    (hlen : raw.length = s.rlen.toNat) (hw : ∀ i, i < raw.length → s.written .rx i = raw[i]?) :
    ∃ t, s.unlessFailed (parseCmd p s) = .next t ∧ ParseOutcome s t (parseResponse p raw s.addr) := by
  by_cases h5 : raw.length < 5
  · rw [parseResponse_of_short p _ h5]
    exact ⟨_, (State.unlessFailed_of_ok _ he).trans (if_pos (hlen ▸ h5)), rfl, rfl, rfl, rfl⟩
  have h5 := Nat.not_lt.1 h5
  have hcount := byteCount_of_response hw h5
  by_cases ht : raw.length < 3 + s.byteCount + 2
  · rw [parseResponse_of_truncated p _ hcount h5 ht, State.unlessFailed_of_ok _ he]
    exact ⟨_, (if_neg (by omega)).trans ((withinBuffer_of_le _ hr).trans (if_pos (hlen ▸ ht))), rfl, rfl, rfl, rfl⟩
  have ht := Nat.not_lt.1 ht
  have hcheck := checkedResponse_crcOk_of_response hw ht
  by_cases hok : p.strictCrc = true → respCrcOk raw s.byteCount = true
  · rw [parseResponse_of_checked p _ hcount h5 ht hok]
    rw [← hcheck] at hok
    by_cases hodd : s.byteCount % 2 = 1
    · rw [if_pos hodd, parse_of_odd p he hr (hlen ▸ h5) (hlen ▸ ht) hok hodd]
      exact ⟨_, rfl, rfl, rfl, rfl, rfl⟩
    · rw [if_neg hodd, parse_of_even p he hr (hlen ▸ h5) (hlen ▸ ht) hok hodd, readingsOf_of_response hw p ht]
      have hlt := s.byteCount_lt
      refine ⟨_, rfl, (State.writeRdSeq_err ..).trans he, rfl, ?_, fun k hk => ?_⟩
      · rw [readingsOf_length, BitVec.toNat_ofNat]; omega
      · refine (State.get_writeRdSeq _ 0 _ k).trans ?_
        rw [if_pos (by omega), Nat.sub_zero]
  · obtain ⟨hstrict, hbad⟩ := Classical.not_imp.1 hok
    rw [parseResponse_of_mismatch p _ hcount h5 ht hstrict hbad,
      parse_of_mismatch p he hr (hlen ▸ h5) (hlen ▸ ht) hstrict (by rw [hcheck]; simpa using hbad)]
    exact ⟨_, rfl, rfl, rfl, rfl, rfl⟩

/-! ### The signed value (42_response_parser R177, R178) -/

theorem signedValue_eq (signFix : Bool) (raw : Half) :
    signedValue signFix raw =
      if 32768 ≤ raw.toNat then (raw.toNat : Int) - (if signFix then 65536 else 65535) else raw.toNat := rfl

/-- With the quirk, −32768 is never produced and 0 comes from two patterns. -/
theorem signedValue_quirk (raw : Half) :
    -32767 ≤ signedValue false raw ∧ signedValue false raw ≤ 32767 ∧
      (signedValue false raw = 0 ↔ raw = 0x0000 ∨ raw = 0xFFFF) := by
  have hlt := raw.isLt
  have hzero : raw = 0x0000 ↔ raw.toNat = 0 := BitVec.toNat_inj.symm
  have hmax : raw = 0xFFFF ↔ raw.toNat = 65535 := BitVec.toNat_inj.symm
  rw [signedValue_eq, hzero, hmax]
  split
  · simp only [Bool.false_eq_true, if_false]; omega
  · omega

/-! ### Canonical memories (log 11) -/

/-- A canonical memory lists exactly what its locations hold. -/
theorem Sparse.mem_iff_get {α : Type} {m : Sparse α} (hm : Sparse.rising m = true) (k : Nat) (v : α) :
    (k, v) ∈ m ↔ Sparse.get m k = some v := by
  rw [Sparse.rising_iff] at hm
  induction m with
  | nil => simp [Sparse.get]
  | cons e m ih =>
    obtain ⟨a, x⟩ := e
    obtain ⟨hlt, hp⟩ := List.pairwise_cons.1 hm
    rw [List.mem_cons, ih hp, Sparse.get]
    by_cases hak : a = k
    · subst hak
      rw [if_pos rfl, Sparse.get_eq_none_of_lt hlt]
      simp [eq_comm]
    · rw [if_neg hak]
      simp [Ne.symm hak]

/-- Two canonical memories that read alike everywhere are the same list. -/
theorem Sparse.ext_get {α : Type} {m m' : Sparse α} (hm : Sparse.rising m = true) (hm' : Sparse.rising m' = true)
    (h : ∀ k, Sparse.get m k = Sparse.get m' k) : m = m' := by
  have hirrefl : Std.Irrefl fun e f : Nat × α => e.1 < f.1 := ⟨fun _ => lt_irrefl _⟩
  have hantisymm : Std.Antisymm fun e f : Nat × α => e.1 < f.1 := ⟨fun _ _ h h' => absurd h (lt_asymm h')⟩
  refine ((Sparse.rising_iff m).1 hm).eq_of_mem_iff ((Sparse.rising_iff m').1 hm') fun e => ?_
  rw [Sparse.mem_iff_get hm, Sparse.mem_iff_get hm', h]

/-! ### What each command leaves unchanged (10_state R20, 20_memory R74) -/

section
variable {i : Instr} {s t : State} (h : exec i s = .next t)
include h

/-- No command writes outside TX. -/
theorem exec_mem_of_outside_tx {a : Nat} (ha : a < 0x0800 ∨ 0x0C00 ≤ a) :
    Sparse.get t.mem a = Sparse.get s.mem a := by
  cases exec_effect h with
  | built _ hn => rw [State.get_buildFrame_mem, State.requestFrame_length, if_neg (by omega)]
  | decoded => rw [State.decodedResponse_frame]; rfl
  | discarded | idle | initialised | updated | verified | countZero | unparsed | cleared => rfl

/-- Only BUILD writes TX and TLEN. -/
theorem exec_tx_of_ne_build (hi : i ≠ .build) : t.mem = s.mem ∧ t.tlen = s.tlen := by
  cases exec_effect h with
  | countZero | built => exact absurd rfl hi
  | decoded => rw [State.decodedResponse_frame]; exact ⟨rfl, rfl⟩
  | discarded | idle | initialised | updated | verified | unparsed | cleared => exact ⟨rfl, rfl⟩

/-- Only PARSE writes RD, RDCNT and RDV. -/
theorem exec_readings_of_ne_parse (hi : i ≠ .parse) : t.rd = s.rd ∧ t.rdcnt = s.rdcnt ∧ t.rdv = s.rdv := by
  cases exec_effect h with
  | unparsed | decoded => exact absurd rfl hi
  | built => rw [State.buildFrame_eq]; exact ⟨rfl, rfl, rfl⟩
  | discarded | idle | initialised | updated | verified | countZero | cleared => exact ⟨rfl, rfl, rfl⟩

/-- Only VERIFY and PARSE write CRC_OK. -/
theorem exec_crcOk_of_ne (hparse : i ≠ .parse) (hverify : ∀ sel, i ≠ .verify sel) : t.crcOk = s.crcOk := by
  cases exec_effect h with
  | unparsed | decoded => exact absurd rfl hparse
  | verified sel => exact absurd rfl (hverify sel)
  | built => rw [State.buildFrame_eq]
  | discarded | idle | initialised | updated | countZero | cleared => rfl

end

/-- A transaction that changes ACC is `Reset` or the write to CMD of a command that does. -/
theorem step_acc {s t : State} {x : Txn} {rest : List Txn} (h : s.script = x :: rest) (hstep : step s = .next t)
    (hacc : t.acc ≠ s.acc) :
    x = .reset ∨ ∃ (d : Data) (i : Instr), x = .write 0 d ∧ d.toNat < 2 ^ 16 ∧ decode (d.setWidth 16) = .ok i ∧
      i ≠ .nop ∧ i ≠ .clrf := by
  obtain ⟨_, hout⟩ | ⟨d, rfl, hd, hout⟩ | ⟨_, _, u, _, _, hu, hout⟩ | ⟨hx, _⟩ := step_outcomes h
  · cases hout.symm.trans hstep
    exact absurd rfl hacc
  · obtain ⟨i, hi, hexec⟩ | ⟨_, _, ⟨_, rfl⟩ | ⟨_, rfl⟩⟩ := issue_next (hout.symm.trans hstep)
    · refine .inr ⟨d, i, rfl, hd, hi, ?_, ?_⟩
      · rintro rfl; cases (exec_nop _).symm.trans hexec; exact hacc rfl
      · rintro rfl; cases hexec; exact hacc rfl
    · exact absurd rfl hacc
    · exact absurd rfl hacc
  · cases hout.symm.trans hstep
    obtain ⟨_, hkeeps, _⟩ := placeWrite_keeps hu
    exact absurd hkeeps hacc
  · exact .inl hx

/-! ### Commands issued again (20_memory R69) -/

/-- A written location reads the same whatever the free values' number. -/
theorem State.memRead_congr_of_isSome {s t : State} {b : Buf} {i : Nat} (site : ReadSite)
    (hw : (s.written b i).isSome = true) (hm : t.written b i = s.written b i) :
    t.memRead site b i = s.memRead site b i := by
  obtain ⟨v, hv⟩ := Option.isSome_iff_exists.1 hw
  rw [State.memRead_of_written hv, State.memRead_of_written (hm.trans hv)]

/-- Writing a sequence that is there already changes nothing. -/
theorem State.memWriteSeq_of_written {s : State} {b : Buf} {vs : List Byte} (hwf : Memory.wf s.mem = true)
    (h : ∀ j, j < vs.length → s.written b j = vs[j]?) : s.memWriteSeq b 0 vs = s := by
  have hmem : (s.memWriteSeq b 0 vs).mem = s.mem := by
    refine Sparse.ext_get (State.memWriteSeq_mem_wf b 0 vs hwf) hwf fun a => ?_
    rw [State.get_memWriteSeq, Nat.add_zero]
    split
    · have hj := h (a - Buf.base b) (by omega)
      rwa [State.written, Nat.add_sub_cancel' (by omega), eq_comm] at hj
    · rfl
  rw [State.memWriteSeq_eq, hmem]

/-- Writing readings that are there already changes nothing. -/
theorem State.writeRdSeq_of_written {s : State} {rs : List Reading} (hwf : Sparse.rising s.rd = true)
    (h : ∀ k, k < rs.length → s.writtenRd k = rs[k]?) : s.writeRdSeq 0 rs = s := by
  have hrd : (s.writeRdSeq 0 rs).rd = s.rd := by
    refine Sparse.ext_get (State.writeRdSeq_rd_wf 0 rs hwf) hwf fun k => (s.get_writeRdSeq 0 rs k).trans ?_
    split
    · exact (h k (by omega)).symm
    · rfl
  rw [State.writeRdSeq_eq, hrd]

/-- The state `t`, with any number for the free values. -/
def State.renumbered (t : State) (c : Nat) : State := { t with freeCtr := c }

/-- BUILD over a state whose TX, TLEN and ACC are those of its frame. -/
theorem State.buildFrame_of_built {u : State} (hwf : Memory.wf u.mem = true)
    (hw : ∀ j, j < u.requestFrame.length → u.written .tx j = u.requestFrame[j]?)
    (htlen : u.tlen = BitVec.ofNat 11 (8 + u.plen.toNat)) (hacc : u.acc = checksum u.requestBody) :
    u.buildFrame = u := by
  have hwrite := State.memWriteSeq_of_written hwf hw
  rw [State.requestFrame] at hwrite
  rw [State.buildFrame_eq, hwrite, ← htlen, ← hacc]

/-- PAY is not TX: a second BUILD finds the request it found before. -/
theorem State.requestBody_renumbered {s : State} (hpay : ∀ j, j < s.plen.toNat → (s.written .pay j).isSome = true)
    (c : Nat) : (s.buildFrame.renumbered c).requestBody = s.requestBody := by
  have hplen := s.plen.isLt
  have hslice : (s.buildFrame.renumbered c).slice .payload .pay 0 s.plen.toNat = s.slice .payload .pay 0 s.plen.toNat :=
    State.slice_congr _ fun j hj => State.memRead_congr_of_isSome _ (hpay _ (by omega))
      ((s.get_buildFrame_mem _).trans (if_neg (by simp only [Buf.base]; omega)))
  have hregs : s.buildFrame =
      { s with mem := s.buildFrame.mem, tlen := s.buildFrame.tlen, acc := s.buildFrame.acc } := by
    rw [State.buildFrame_eq]
  rw [State.requestBody, State.requestBody, ← hslice, State.renumbered, hregs]

/-- BUILD finds the same request again and writes the frame that is there already. -/
theorem build_again {s : State} (hinv : Inv Config.params s) (he : s.err = 0) (hc : s.count ≠ 0)
    (hn : s.plen.toNat ≤ 1016) (hpay : ∀ j, j < s.plen.toNat → (s.written .pay j).isSome = true) (c : Nat) :
    exec .build (s.buildFrame.renumbered c) = .next (s.buildFrame.renumbered c) := by
  have hbody := s.requestBody_renumbered hpay c
  have hframe : (s.buildFrame.renumbered c).requestFrame = s.requestFrame := by
    rw [State.requestFrame, hbody]; rfl
  have hsame : (s.buildFrame.renumbered c).buildFrame = s.buildFrame.renumbered c := by
    refine State.buildFrame_of_built hinv.buildFrame.mem_wf ?_ ?_ ?_
    · rw [hframe]; exact fun j => s.written_buildFrame
    · simp only [State.renumbered, State.buildFrame_eq]
    · rw [hbody, State.renumbered, State.buildFrame_eq]
  calc exec .build (s.buildFrame.renumbered c)
    _ = .next (s.buildFrame.renumbered c).buildFrame := by
      refine exec_build_of_le ?_ ?_ ?_ <;> simp only [State.renumbered, State.buildFrame_eq] <;> assumption
    _ = .next (s.buildFrame.renumbered c) := by rw [hsame]

/-- PARSE over a state whose ACC, CRC_OK, RD, RDCNT and RDV are those of its response. -/
theorem State.decodedResponse_of_decoded {u : State} {n : Nat} (hwf : Sparse.rising u.rd = true)
    (hchecked : u.checkedResponse n = u)
    (hw : ∀ k, k < n / 2 → u.writtenRd k =
      some (readingOf Config.params u.addr k (u.memRead .data .rx (3 + 2 * k)) (u.memRead .data .rx (4 + 2 * k))))
    (hrdcnt : u.rdcnt = BitVec.ofNat 7 (n / 2)) (hrdv : u.rdv = true) : u.decodedResponse n = u := by
  have hwrite : u.writeRdSeq 0 (readingsOf Config.params u.addr n (u.memRead .data .rx)) = u := by
    refine State.writeRdSeq_of_written hwf fun k hk => ?_
    rw [readingsOf_length] at hk
    rw [hw k hk, readingsOf_getElem? _ _ _ _ _ hk]
  rw [State.decodedResponse, hchecked, hwrite, ← hrdcnt, ← hrdv]

/-- PARSE writes no buffer. -/
theorem State.written_decodedResponse (s : State) (n : Nat) (b : Buf) (j : Nat) :
    (s.decodedResponse n).written b j = s.written b j := by
  rw [State.written, State.decodedResponse_frame]; rfl

/-- PARSE finds the same response again and writes the readings that are there already. -/
theorem parse_again {s : State} (hinv : Inv Config.params s) (he : s.err = 0) (hr : s.rlen.toNat ≤ 1024)
    (hn : 3 + s.byteCount + 2 ≤ s.rlen.toNat) (heven : s.byteCount % 2 = 0)
    (hrx : ∀ j, j < s.rlen.toNat → (s.written .rx j).isSome = true) (c : Nat) :
    exec .parse ((s.decodedResponse s.byteCount).renumbered c) =
      .next ((s.decodedResponse s.byteCount).renumbered c) := by
  obtain ⟨n, hcount⟩ : ∃ n, n = s.byteCount := ⟨_, rfl⟩
  obtain ⟨u, hu⟩ : ∃ u, u = (s.decodedResponse n).renumbered c := ⟨_, rfl⟩
  rw [← hcount] at hn heven ⊢
  rw [← hu]
  have hregs : u = { s.checkedResponse n with
      rd := (s.decodedResponse n).rd, rdcnt := BitVec.ofNat 7 (n / 2), rdv := true, freeCtr := c } := by
    rw [hu, State.decodedResponse_frame]; rfl
  have hread (site : ReadSite) {i : Nat} (hi : i < s.rlen.toNat) : u.memRead site .rx i = s.memRead site .rx i := by
    rw [hu]
    exact State.memRead_congr_of_isSome site (hrx i hi) (s.written_decodedResponse n .rx i)
  have hslice : u.slice .checksum .rx 0 (3 + n) = s.slice .checksum .rx 0 (3 + n) :=
    State.slice_congr _ fun j hj => hread _ (by omega)
  have hbyteCount : u.byteCount = n := by rw [hcount, State.byteCount, hread _ (by omega)]; rfl
  have hchecked : u.checkedResponse n = u := by
    rw [State.checkedResponse, hslice, hread _ (by omega), hread _ (by omega), hregs]; rfl
  have hsame : u.decodedResponse n = u := by
    refine State.decodedResponse_of_decoded ?_ hchecked (fun k hk => ?_) ?_ ?_
    · rw [hu]; exact State.writeRdSeq_rd_wf 0 _ hinv.rd_wf
    · rw [hread _ (by omega), hread _ (by omega), hu]
      refine (s.writtenRd_decodedResponse n k).trans ?_
      rw [if_pos hk, ← hu, hregs]; rfl
    · rw [hregs]
    · rw [hregs]
  have hrlen : u.rlen = s.rlen := by rw [hregs]; rfl
  have herr : u.err = 0 := by rw [hregs]; exact he
  calc exec .parse u
    _ = .next (u.decodedResponse u.byteCount) :=
      exec_parse_of_even herr (by rw [hrlen]; omega) (by rw [hrlen]; exact hr) (by rw [hbyteCount, hrlen]; exact hn)
        (by rw [hbyteCount]; exact heven)
    _ = .next u := by rw [hbyteCount, hsame]

/-- The buffer a selector names holds a written frame. -/
theorem Inv.frame_written {p : Params} {s : State} (hinv : Inv p s)
    (hrx : ∀ j, j < s.rlen.toNat → (s.written .rx j).isSome = true) (sel : Sel) {j : Nat}
    (hj : j < s.selLength sel) : (s.written (selBuf sel) j).isSome = true := by
  cases sel with
  | tx => exact hinv.tx_written j hj
  | rx => exact hrx j hj

theorem Inv.selLength_le {s : State} (hinv : Inv Config.params s) (sel : Sel) : s.selLength sel ≤ 1024 := by
  cases sel with
  | tx => exact hinv.bufLength_le .tx
  | rx => exact hinv.bufLength_le .rx

/-- VERIFY finds the same bytes again. -/
theorem verify_again {s t : State} (hinv : Inv Config.params s) (he : s.err = 0) {sel : Sel}
    (hw : ∀ j, j < s.selLength sel → (s.written (selBuf sel) j).isSome = true) (h : exec (.verify sel) s = .next t)
    (c : Nat) : exec (.verify sel) (t.renumbered c) = .next (t.renumbered c) := by
  have hle := hinv.selLength_le sel
  cases exec_effect h with
  | discarded _ hs => exact absurd he hs
  | verified _ a ok =>
    obtain ⟨u, hu⟩ : ∃ u, u = ({ s with acc := a, crcOk := ok } : State).renumbered c := ⟨_, rfl⟩
    have herr : u.err = 0 := by rw [hu]; exact he
    have hlen : u.selLength sel = s.selLength sel := by rw [hu]; cases sel <;> rfl
    have hread {j : Nat} (hj : j < s.selLength sel) :
        u.memRead .frame (selBuf sel) j = s.memRead .frame (selBuf sel) j :=
      State.memRead_congr_of_isSome _ (hw j hj) (by rw [hu]; rfl)
    have hslice : u.slice .frame (selBuf sel) 0 (s.selLength sel - 2) =
        s.slice .frame (selBuf sel) 0 (s.selLength sel - 2) :=
      State.slice_congr _ fun j hj => hread (by omega)
    rw [← hu]
    by_cases hn : s.selLength sel < 2
    · have ht := (exec_verify_of_short he hn).symm.trans h
      injection ht with ht
      obtain rfl : false = ok := congrArg State.crcOk ht
      rw [exec_verify_of_short herr (by omega), hu]
      rfl
    · have ht := (exec_verify_of_le he (Nat.not_lt.1 hn) hle).symm.trans h
      injection ht with ht
      obtain rfl : _ = a := congrArg State.acc ht
      obtain rfl : _ = ok := congrArg State.crcOk ht
      rw [exec_verify_of_le herr (by omega) (by omega), hlen, hslice, hread (by omega), hread (by omega), hu]
      rfl

/-! ### Reads of the host (20_memory R62) -/

/-- The answer to a read of a place. -/
def State.readAnswer (s : State) (l : Place) : Answer :=
  match s.placeRead l with
  | some d => .readData d
  | none => .readRejected 0

theorem step_read_answer {s : State} {a : Index} {rest : List Txn} (h : s.script = .read a :: rest) :
    step s = .next ((s.popped rest).answered ((s.popped rest).readAnswer (place Config.params a))) := step_read h

theorem State.readAnswer_of_reserved (s : State) {a : Index} (ha : reservedIndex a.toNat) :
    s.readAnswer (place Config.params a) = .readRejected 0 := by
  rw [State.readAnswer, (s.placeRead_eq_none_iff a).2 ha]

/-- Between the registers and RD, every word index that is not reserved is a location of a buffer. -/
theorem place_eq_byte_of_range {a : Index} (hl : 0x0400 ≤ a.toNat) (hu : a.toNat < 0x1000)
    (ha : ¬ reservedIndex a.toNat) : ∃ b i, place Config.params a = .byte b i ∧ Buf.base b + i = a.toNat := by
  obtain ⟨r, _, hr⟩ | ⟨hp, hl, _⟩ | ⟨hp, hl, _⟩ | ⟨hp, hl, _⟩ | ⟨_, hl, _⟩ | ⟨_, hl, _⟩ | ⟨_, hres⟩ := place_cases a
  · have hlt := Reg.index_lt r; omega
  · exact ⟨.pay, _, hp, Nat.add_sub_cancel' hl⟩
  · exact ⟨.tx, _, hp, Nat.add_sub_cancel' hl⟩
  · exact ⟨.rx, _, hp, Nat.add_sub_cancel' hl⟩
  · omega
  · omega
  · exact absurd hres ha

/-- A read of a buffer location gives the byte written last there, or some byte. -/
theorem State.readAnswer_of_byte (s : State) {a : Index} (hl : 0x0400 ≤ a.toNat) (hu : a.toNat < 0x1000)
    (ha : ¬ reservedIndex a.toNat) :
    ∃ v : Byte, s.readAnswer (place Config.params a) = .readData (v.setWidth 32) ∧
      ∀ w, Sparse.get s.mem a.toNat = some w → v = w := by
  obtain ⟨b, i, hp, hi⟩ := place_eq_byte_of_range hl hu ha
  refine ⟨s.memRead .host b i, by rw [hp]; rfl, fun w hw => State.memRead_of_written ?_ .host⟩
  rwa [← hi] at hw

/-- A read in RD gives a word of the entry: its address at an even word index, its value word at an odd one. -/
theorem State.readAnswer_of_reading (s : State) {a : Index} (hl : 0x1000 ≤ a.toNat) (hu : a.toNat < 0x10FE) :
    ∃ v, s.readAnswer (place Config.params a) = .readData v ∧
      v.toNat = if a.toNat % 2 = 0 then (s.readRd ((a.toNat - 0x1000) / 2)).address.toNat
        else 65536 * (s.readRd ((a.toNat - 0x1000) / 2)).signed.toNat +
          (s.readRd ((a.toNat - 0x1000) / 2)).raw.toNat := by
  obtain ⟨r, _, hr⟩ | ⟨_, _, hu'⟩ | ⟨_, _, hu'⟩ | ⟨_, _, hu'⟩ | ⟨hp, _, _, heven⟩ | ⟨hp, _, _, hodd⟩ | ⟨_, hres⟩ :=
    place_cases a
  case inr.inr.inr.inr.inl =>
    refine ⟨(s.readRd ((a.toNat - 0x1000) / 2)).address.setWidth 32, by rw [hp]; rfl, ?_⟩
    have hlt := (s.readRd ((a.toNat - 0x1000) / 2)).address.isLt
    rw [if_pos heven, BitVec.toNat_setWidth, Nat.mod_eq_of_lt (by omega)]
  case inr.inr.inr.inr.inr.inl =>
    refine ⟨(s.readRd ((a.toNat - 0x1000) / 2)).valueWord, by rw [hp]; rfl, ?_⟩
    rw [if_neg (by omega), valueWord_toNat]
  case inl => have hlt := Reg.index_lt r; omega
  case inr.inr.inr.inr.inr.inr => unfold reservedIndex at hres; omega
  all_goals omega

theorem State.readRd_of_written {s : State} {k : Nat} {q : Reading} (h : s.writtenRd k = some q) : s.readRd k = q := by
  rw [State.readRd, h]; rfl

/-- A byte stored in PAY or RX is what a read of the location gives next. -/
theorem readAnswer_of_stored (s : State) {a : Index} {d : Data} (hl : 0x0400 ≤ a.toNat) (hu : a.toNat < 0x1000)
    (ha : ¬ reservedIndex a.toNat) (hd : d.toNat < 2 ^ 8)
    (hs : Sparse.get s.mem a.toNat = some (d.setWidth 8)) : s.readAnswer (place Config.params a) = .readData d := by
  obtain ⟨v, hans, hv⟩ := s.readAnswer_of_byte hl hu ha
  rw [hans, hv _ hs]
  congr 1
  apply BitVec.eq_of_toNat_eq
  rw [BitVec.toNat_setWidth, BitVec.toNat_setWidth, Nat.mod_eq_of_lt hd, Nat.mod_eq_of_lt (by omega)]

/-! ### Loads (30_encoding R100) -/

theorem State.written_memWriteSeq (s : State) (b : Buf) (vs : List Byte) {j : Nat} (hj : j < vs.length) :
    (s.memWriteSeq b 0 vs).written b j = vs[j]? := by
  rw [State.written, State.get_memWriteSeq, if_pos (by omega)]
  congr 1
  omega

/-- The state with the model's own fields replaced. -/
def State.withHost (s : State) (xs : List Txn) (a : Answer) (c : Nat) : State :=
  { s with script := xs, answer := a, freeCtr := c }

theorem State.memWriteSeq_withHost (s : State) (xs : List Txn) (a : Answer) (c : Nat) (b : Buf) (i : Nat)
    (vs : List Byte) : (s.withHost xs a c).memWriteSeq b i vs = (s.memWriteSeq b i vs).withHost xs a c := by
  induction vs generalizing s i with
  | nil => rfl
  | cons v vs ih => exact ih (s.memWrite b i v) (i + 1)

/-- The script's name of a buffer. -/
def Buf.area : Buf → Area
  | .pay => .pay
  | .tx => .tx
  | .rx => .rx

theorem Buf.firstIndex_area (b : Buf) : (Buf.area b).firstIndex = Buf.base b := by cases b <;> rfl

section
variable {b : Buf} (hb : b = .pay ∨ b = .rx)
include hb

theorem index_range_of_writable {i : Nat} (hi : i < Buf.size Config.params b) :
    (0x0400 ≤ Buf.base b + i ∧ Buf.base b + i < 0x07F8) ∨ (0x0C00 ≤ Buf.base b + i ∧ Buf.base b + i < 0x1000) := by
  obtain rfl | rfl := hb
  · exact .inl ⟨Nat.le_add_right .., Nat.add_lt_add_left hi 0x0400⟩
  · exact .inr ⟨Nat.le_add_right .., Nat.add_lt_add_left hi 0x0C00⟩

/-- A load of one byte is a store at its location. -/
theorem step_load {s : State} {i : Nat} {v : Byte} {rest : List Txn} (hi : i < Buf.size Config.params b)
    (h : s.script = Stmt.txn (.wrAt (Buf.area b) i (v.setWidth 32)) :: rest) :
    step s = .next ((s.memWrite b i v).withHost rest .writeDone (s.freeCtr + 1)) := by
  have hrange := index_range_of_writable hb hi
  have hindex : (Area.word (Buf.area b) i).toNat = Buf.base b + i := by
    rw [Area.word, Buf.firstIndex_area, BitVec.toNat_ofNat, Nat.mod_eq_of_lt (by omega)]
  have hv : (v.setWidth 32).toNat < 256 := by rw [BitVec.toNat_setWidth]; omega
  have hacc : ¬ rejectsWrite (Area.word (Buf.area b) i).toNat (v.setWidth 32).toNat := by
    unfold rejectsWrite reservedIndex readOnlyIndex; omega
  have hbyte : (v.setWidth 32).setWidth 8 = v := by simp
  rw [step_write_byte h (by omega) hacc, hbyte, hindex]
  rfl

/-- A load of a sequence is the sequence's stores, whatever runs after it. -/
theorem runs_load {s : State} {i : Nat} {vs : List Byte} {rest : List Txn}
    (hi : i + vs.length ≤ Buf.size Config.params b)
    (h : s.script = (loadFrom (Buf.area b) i vs).map Stmt.txn ++ rest) :
    ∃ a c, ∀ k, runs (vs.length + k) s = runs k ((s.memWriteSeq b i vs).withHost rest a c) := by
  induction vs generalizing s i with
  | nil =>
    refine ⟨s.answer, s.freeCtr, fun k => ?_⟩
    obtain rfl : s.script = rest := h
    rw [List.length_nil, Nat.zero_add]
    rfl
  | cons v vs ih =>
    rw [List.length_cons] at hi
    have hstep := step_load hb (rest := (loadFrom (Buf.area b) (i + 1) vs).map Stmt.txn ++ rest) (by omega) h
    obtain ⟨a, c, hrun⟩ := ih (s := (s.memWrite b i v).withHost _ .writeDone (s.freeCtr + 1)) (i := i + 1)
      (by omega) rfl
    refine ⟨a, c, fun k => ?_⟩
    rw [List.length_cons, Nat.add_right_comm, runs_succ hstep, hrun, State.memWriteSeq_withHost]
    rfl

end

/-- A write of a register that passes the register's check. -/
theorem step_wr {s t : State} {r : Reg} {d : Data} {rest : List Txn} (h : s.script = Stmt.txn (.wr r d) :: rest)
    (ht : (s.popped rest).regWrite Config.params r d = some t) : step s = .next (t.answered .writeDone) := by
  have hplace : place Config.params (Reg.word r) = .reg r := by cases r <;> rfl
  have hcmd : Reg.word r ≠ 0 := by
    cases r with
    | cmd => cases ht
    | status | err | acc | unit | func | addr | count | plen | tlen | rlen | rdcnt => decide
  have hwrite : (s.popped rest).placeWrite Config.params (.reg r) d = some t := ht
  rw [step_write h hcmd, hplace, State.storeAt, hwrite]

/-- A value of a field's width passes the field's check and is stored as it is (10_state R46). -/
theorem ite_fits {w : Nat} (hw : w ≤ 32) (v : BitVec w) (f : BitVec w → State) :
    (if fits w (v.setWidth 32) then some (f ((v.setWidth 32).setWidth w)) else none) = some (f v) := by
  have hfits : fits w (v.setWidth 32) = true := by
    rw [fits_iff, BitVec.toNat_setWidth]
    exact (Nat.mod_le _ _).trans_lt v.isLt
  rw [if_pos hfits, BitVec.setWidth_setWidth_of_le _ hw, BitVec.setWidth_eq]

/-- A length within its buffer passes the length register's check and is stored as it is (10_state R46). -/
theorem ite_length {w m n : Nat} (hw : w ≤ 32) (hm : m < 2 ^ w) (hn : n ≤ m) (f : BitVec w → State) :
    (if fits w (BitVec.ofNat 32 n) && decide ((BitVec.ofNat 32 n).toNat ≤ m) then
      some (f ((BitVec.ofNat 32 n).setWidth w)) else none) = some (f (BitVec.ofNat w n)) := by
  have hpow : 2 ^ w ≤ 2 ^ 32 := Nat.pow_le_pow_right (by decide) hw
  have hnat : (BitVec.ofNat 32 n).toNat = n := by rw [BitVec.toNat_ofNat, Nat.mod_eq_of_lt (by omega)]
  have hcheck : (fits w (BitVec.ofNat 32 n) && decide ((BitVec.ofNat 32 n).toNat ≤ m)) = true := by
    rw [Bool.and_eq_true, fits_iff, decide_eq_true_iff, hnat]
    exact ⟨by omega, hn⟩
  have hword : (BitVec.ofNat 32 n).setWidth w = BitVec.ofNat w n := by
    apply BitVec.eq_of_toNat_eq
    rw [BitVec.toNat_setWidth, hnat, BitVec.toNat_ofNat]
  rw [if_pos hcheck, hword]

theorem State.regWrite_unit (s : State) (v : Byte) :
    s.regWrite Config.params .unit (v.setWidth 32) = some { s with unit := v } :=
  ite_fits (by decide) v fun v => { s with unit := v }

theorem State.regWrite_func (s : State) (v : Byte) :
    s.regWrite Config.params .func (v.setWidth 32) = some { s with func := v } :=
  ite_fits (by decide) v fun v => { s with func := v }

theorem State.regWrite_addr (s : State) (v : Half) :
    s.regWrite Config.params .addr (v.setWidth 32) = some { s with addr := v } :=
  ite_fits (by decide) v fun v => { s with addr := v }

theorem State.regWrite_count (s : State) (v : Half) :
    s.regWrite Config.params .count (v.setWidth 32) = some { s with count := v } :=
  ite_fits (by decide) v fun v => { s with count := v }

theorem State.regWrite_plen (s : State) {n : Nat} (hn : n ≤ 1016) :
    s.regWrite Config.params .plen (BitVec.ofNat 32 n) = some { s with plen := BitVec.ofNat 10 n } :=
  ite_length (by decide) (by decide) hn fun v => { s with plen := v }

theorem State.regWrite_rlen (s : State) {n : Nat} (hn : n ≤ 1024) :
    s.regWrite Config.params .rlen (BitVec.ofNat 32 n) = some { s with rlen := BitVec.ofNat 11 n } :=
  ite_length (by decide) (by decide) hn fun v => { s with rlen := v }

/-- LDPAY: the payload from location 0 of PAY on, and PLEN. -/
theorem runs_ldpay {s : State} {bs : List Byte} {rest : List Txn} (hlen : bs.length ≤ 1016)
    (h : s.script = Pseudo.txns (.ldpay bs) ++ rest) :
    ∃ c, runs (bs.length + 1) s =
      .next { (s.memWriteSeq .pay 0 bs).withHost rest .writeDone c with plen := BitVec.ofNat 10 bs.length } := by
  rw [Pseudo.txns, Pseudo.expand, List.map_append, List.append_assoc] at h
  obtain ⟨a, c, hrun⟩ := runs_load (b := .pay) (.inl rfl) (by rw [Nat.zero_add]; exact hlen) h
  exact ⟨c + 1, by rw [hrun, runs_succ (step_wr rfl (State.regWrite_plen _ hlen))]; rfl⟩

/-- LDRX: the response from location 0 of RX on, and RLEN. -/
theorem runs_ldrx {s : State} {bs : List Byte} {rest : List Txn} (hlen : bs.length ≤ 1024)
    (h : s.script = Pseudo.txns (.ldrx bs) ++ rest) :
    ∃ c, runs (bs.length + 1) s =
      .next { (s.memWriteSeq .rx 0 bs).withHost rest .writeDone c with rlen := BitVec.ofNat 11 bs.length } := by
  rw [Pseudo.txns, Pseudo.expand, List.map_append, List.append_assoc] at h
  obtain ⟨a, c, hrun⟩ := runs_load (b := .rx) (.inr rfl) (by rw [Nat.zero_add]; exact hlen) h
  exact ⟨c + 1, by rw [hrun, runs_succ (step_wr rfl (State.regWrite_rlen _ hlen))]; rfl⟩

/-- SETREQ: the four operand registers. -/
theorem runs_setreq {s : State} {u f : Byte} {a c : Half} {rest : List Txn}
    (h : s.script = Pseudo.txns (.setreq u f a c) ++ rest) :
    runs 4 s =
      .next { s.withHost rest .writeDone (s.freeCtr + 4) with unit := u, func := f, addr := a, count := c } := by
  rw [runs_succ (step_wr h (State.regWrite_unit _ u)), runs_succ (step_wr rfl (State.regWrite_func _ f)),
    runs_succ (step_wr rfl (State.regWrite_addr _ a)), runs_succ (step_wr rfl (State.regWrite_count _ c))]
  rfl

/-! ### The words of the script (30_encoding R99) -/

/-- The word of CRCUPD on the port. -/
theorem encode_crcupd_setWidth (b : Byte) : (encode (.crcupd b)).setWidth 32 = (0x00000200 + b.setWidth 32 : Data) := by
  have hop : (0x0200 : Command).toNat = 512 := rfl
  have hop' : (0x00000200 : Data).toNat = 512 := rfl
  apply BitVec.eq_of_toNat_eq
  simp only [encode, BitVec.toNat_setWidth, BitVec.toNat_add]
  omega

/-! ### The obligations -/

/-- Settles O1: command by command. -/
theorem decodeOfEncodeIsTheCommand : Obligations.DecodeOfEncodeIsTheCommand :=
  fun i _ => decode_encode i

/-- Settles O56: by the kind of transaction, and for a command by the updates it makes. -/
theorem everyStepKeepsTheInvariants : Obligations.EveryStepKeepsTheInvariants :=
  fun _ _ => step_keeps_inv

/-- Settles O2: by the cases of a legal word. -/
theorem encodeOfDecodeIsTheWord : Obligations.EncodeOfDecodeIsTheWord :=
  fun _ _ h => encode_of_decode h

/-- Settles O3: a word decodes to a command when it is its word; a row with a full mask holds one word. -/
theorem decodeIsTheOpcodeTable : Obligations.DecodeIsTheOpcodeTable := by
  intro w
  have hfull : w &&& 0xFFFF = w := BitVec.and_allOnes
  simp only [hfull, decode_eq_ok_iff]
  exact ⟨.rfl, .rfl, fun _ => eq_encode_crcupd_iff, fun _ => eq_encode_verify_iff, .rfl, .rfl, .rfl⟩

/-- Settles O4: each class by its own clause, and a legal word is in none of them. -/
theorem illegalWordsAreTheThreeClasses : Obligations.IllegalWordsAreTheThreeClasses := by
  intro w
  rw [← opOf_eq_ofNat, ← immOf_eq_ofNat]
  have hlist (n : Nat) : n ∈ [0x00, 0x01, 0x04, 0x05, 0x06] ↔ n ≤ 1 ∨ 4 ≤ n ∧ n ≤ 6 := by
    simp only [List.mem_cons, List.not_mem_nil, or_false]; omega
  obtain ⟨hlegal, i, hd⟩ | ⟨hop, hd⟩ | ⟨hop, himm, hd⟩ | ⟨hop, himm, hd⟩ := decode_classes w <;> rw [hd]
  · rw [hlist] at hlegal ⊢
    exact ⟨by omega, by omega, by omega, iff_of_true ⟨i, rfl⟩ hlegal⟩
  · rw [hlist]
    exact ⟨fun _ => rfl, by omega, by omega, iff_of_false nofun (by omega)⟩
  · rw [hlist] at hop ⊢
    exact ⟨by omega, fun _ _ => rfl, by omega, iff_of_false nofun (by omega)⟩
  · rw [hlist]
    exact ⟨by omega, by omega, fun _ _ => rfl, iff_of_false nofun (by omega)⟩

/-- Settles O13: the answer to a read, place by place. -/
theorem hostReadReturns : Obligations.HostReadReturns := by
  intro s a rest h
  have hbyte := (s.popped rest).readAnswer_of_byte (a := a)
  refine ⟨_, step_read_answer h, (s.popped rest).readAnswer_of_reserved, ?_, ?_, ?_, ?_, ?_, ?_, ?_, ?_, ?_, ?_, ?_, ?_,
    hbyte, fun hl hu => ?reading⟩
  case reading =>
    exact ⟨(s.popped rest).readRd _, fun q hq => State.readRd_of_written hq,
      (s.popped rest).readAnswer_of_reading hl hu⟩
  all_goals rintro rfl; rfl

/-- Settles O15: the store of the byte, then the read of what was stored last. -/
theorem writtenByteReadsBack : Obligations.WrittenByteReadsBack := by
  intro s a d rest h ha hd
  have hacc : ¬ rejectsWrite a.toNat d.toNat := by unfold rejectsWrite reservedIndex readOnlyIndex; omega
  have hmapped : ¬ reservedIndex a.toNat := fun hres => hacc (.inl hres)
  rw [runs_succ (step_write_byte h (by omega) hacc), runs_succ (step_read_answer rfl)]
  exact ⟨_, rfl, readAnswer_of_stored _ (by omega) (by omega) hmapped hd (Sparse.get_set_self ..)⟩

/-- Settles O16: each flag is one bit of the word. -/
theorem statusBitsAreTheFlags : Obligations.StatusBitsAreTheFlags := fun s j => s.getLsbD_statusWord j

/-- Settles O22: the byte step is linear, and eight bit steps shift the high byte down. -/
theorem tableDrivenByteStepAgrees : Obligations.TableDrivenByteStepAgrees := crcByte_eq_table

/-- Settles O23: each of the two bytes meets itself in the accumulator's low half. -/
theorem checksumResidueIsZero : Obligations.ChecksumResidueIsZero := by
  intro s
  rw [checksum, List.foldl_append]
  exact foldl_crcByte_le16 (checksum s)

/-- Settles O25: by induction on the stream, from the initial value that CRCINIT and `Reset` leave. -/
theorem streamingLaw : Obligations.StreamingLaw := by
  refine ⟨fun s xs rest hs h hxs => ?_, fun s xs rest h hxs => ?_⟩
  · have hstep := (step_cmd h (by decide)).trans (State.unlessFailed_of_ok _ hs)
    rw [runs_succ hstep]
    exact runs_streamed hs rfl hxs
  · rw [runs_succ (step_cons h)]
    exact runs_streamed rfl rfl hxs

/-- Settles O33: the frame is the body, then its checksum low byte first. -/
theorem builtFrameLengthAndChecksum : Obligations.BuiltFrameLengthAndChecksum := by
  intro u f a c p hc
  have hbody : (requestHeader u f a c ++ p).length = 6 + p.length := by simp
  refine ⟨_, buildRequest_of_count_ne_zero hc u f a p, ?length, ?checksum, frameOk_append_le16 _⟩
  case length => rw [List.length_append, hbody]; simp only [le16, List.length_cons, List.length_nil]; omega
  case checksum => rw [List.drop_left' hbody, List.take_left' hbody]

/-- Settles O36: BUILD leaves the frame in TX and its checksum in ACC. -/
theorem verifyAfterBuildSucceeds : Obligations.VerifyAfterBuildSucceeds :=
  fun _ he hc hn => ⟨_, exec_build_of_le he hc hn, exec_verify_buildFrame he hn⟩

/-- Settles O42: PARSE makes the checks of `parse_response` in its order, over the same bytes. -/
theorem parseRefinesParseResponse : Obligations.ParseRefinesParseResponse := by
  intro p s raw he hr hlen hw
  obtain ⟨t, ht, houtcome⟩ := parse_refines p he hr hlen hw
  refine ⟨t, ht, ?_⟩
  cases hparse : parseResponse p raw s.addr <;> rwa [hparse] at houtcome

/-- Settles O44: every byte read stands before the declared end. -/
theorem bytesBeyondTheDeclaredEndAreIgnored : Obligations.BytesBeyondTheDeclaredEndAreIgnored :=
  fun p _ extra start h5 h => parseResponse_append p start h5 h.ge extra

/-- Settles O45: past check 3, a byte count of 0 is even and declares no register. -/
theorem byteCountZeroIsAccepted : Obligations.ByteCountZeroIsAccepted := by
  intro p raw start h5 hzero hok
  have hn : 0 = (raw.getD 2 0).toNat := by rw [hzero]; rfl
  rw [parseResponse_of_checked p start hn h5 h5 fun hp => (respCrcOk_iff raw 0).2 (hok hp)]
  rfl

/-- Settles O46: without check 3 nothing read stands in the first two bytes. -/
theorem parserIgnoresUnitAndFunction : Obligations.ParserIgnoresUnitAndFunction :=
  fun p u u' f f' rest start hp => parseResponse_cons_cons p hp u f u' f' rest start

/-- Settles O47: the stored pattern is the integer in both modes; the rest is the integer's arithmetic. -/
theorem signedPatternIsTheQuirk : Obligations.SignedPatternIsTheQuirk :=
  fun raw => ⟨signed16_toInt false raw, signed16_toInt true raw, (signed16_toInt false raw).symm,
    (signed16_toInt true raw).symm, signedValue_quirk raw⟩

/-- Settles O49: by the kinds of write a command makes. -/
theorem commandsWriteOnlyTheirOwnState : Obligations.CommandsWriteOnlyTheirOwnState := by
  intro i s t h
  obtain ⟨hscript, hanswer, hctr, hunit, hfunc, haddr, hcount, hplen, hrlen⟩ := exec_keeps h
  exact ⟨hrlen, hunit, hfunc, haddr, hcount, hplen, fun _ => exec_mem_of_outside_tx h, exec_tx_of_ne_build h,
    exec_readings_of_ne_parse h, hscript, hanswer, hctr⟩

/-- Settles O51: by the kinds of write a command makes, and the flags as no command's input. -/
theorem crcOkWritersAndReaders : Obligations.CrcOkWritersAndReaders := by
  refine ⟨fun i s t hparse hverify h => exec_crcOk_of_ne h hparse hverify, fun i s t b h => ?_⟩
  obtain ⟨c', r', hu, _, hr⟩ := exec_flagsUnread i s b s.rdv t h
  obtain rfl := hr rfl
  exact ⟨_, hu, rfl⟩

/-- Settles O52: by the kind of transaction; NOP, CLRF, illegal words and stores keep ACC. -/
theorem accChangesOnlyByItsCommands : Obligations.AccChangesOnlyByItsCommands :=
  fun _ _ _ _ => step_acc

/-- Settles O53: each of the three finds again what it read, and writes what is there already. -/
theorem repeatedCommandsAreIdempotent : Obligations.RepeatedCommandsAreIdempotent := by
  intro i s t c hinv hpay hrx hi h ht
  have he : s.err = 0 := by
    by_contra hs
    have hclrf : i ≠ .clrf := by rintro rfl; simp at hi
    cases (exec_of_failed hclrf hs).symm.trans h
    exact hs ht
  obtain rfl | rfl | ⟨sel, rfl⟩ := hi
  · cases exec_effect h with
    | discarded _ hs => exact absurd he hs
    | countZero => cases ht
    | built hc hn => exact build_again hinv he hc hn hpay c
  · cases exec_effect h with
    | discarded _ hs => exact absurd he hs
    | unparsed a ok e hcode => obtain rfl : e = 0 := ht; exact absurd hcode (by decide)
    | decoded hr hn heven => exact parse_again hinv he hr hn heven hrx c
  · exact verify_again hinv he (fun j => hinv.frame_written hrx sel) h c

/-- Settles O54: outside the Failed state by the branches of the commands; in it every command completes. -/
theorem commandsStopOnlyPastABuffer : Obligations.CommandsStopOnlyPastABuffer := by
  intro i s
  by_cases hs : s.err = 0
  · obtain h | ⟨b, h, hlt⟩ := exec_completesOrStops i s
    · exact .inl h
    · exact .inr ⟨hs, b, _, h, hlt, by cases b <;> rfl⟩
  · by_cases hi : i = .clrf
    · subst hi
      exact .inl ⟨_, rfl⟩
    · exact .inl ⟨s, exec_of_failed hi hs⟩

/-- Settles O57: a command stops only at a length above its buffer, which the invariants exclude. -/
theorem everyTransactionCompletes : Obligations.EveryTransactionCompletes := fun _ => step_completes

/-- Settles O58: a canonical memory is the sorted list of what its locations hold. -/
theorem canonicalMemoriesAreEqual : Obligations.CanonicalMemoriesAreEqual :=
  fun _ _ => Sparse.ext_get

/-- Settles O60: the stores of the sequence, then the write of the length register; and four register writes. -/
theorem loadPseudoInstructionsLoad : Obligations.LoadPseudoInstructionsLoad := by
  refine ⟨fun s bs rest hwf h => ?ldpay, fun s bs rest hwf h => ?ldrx, fun s u f a c rest h => ?setreq⟩
  case ldpay =>
    have hlen : bs.length ≤ 1016 := of_decide_eq_true hwf
    obtain ⟨c, hrun⟩ := runs_ldpay hlen h
    refine ⟨_, hrun, by rw [State.memWriteSeq_eq]; rfl, ?_, fun j => s.written_memWriteSeq .pay bs, fun a ha => ?_⟩
    · rw [BitVec.toNat_ofNat]; omega
    · exact (s.get_memWriteSeq .pay 0 bs a).trans (if_neg (by simp only [Buf.base]; omega))
  case ldrx =>
    have hlen : bs.length ≤ 1024 := of_decide_eq_true hwf
    obtain ⟨c, hrun⟩ := runs_ldrx hlen h
    refine ⟨_, hrun, by rw [State.memWriteSeq_eq]; rfl, ?_, fun j => s.written_memWriteSeq .rx bs, fun a ha => ?_⟩
    · rw [BitVec.toNat_ofNat]; omega
    · exact (s.get_memWriteSeq .rx 0 bs a).trans (if_neg (by simp only [Buf.base]; omega))
  case setreq => exact ⟨_, runs_setreq h, rfl⟩

/-- Settles O5: by computation. -/
theorem sampleWordsDecode : Obligations.SampleWordsDecode := by
  unfold Obligations.SampleWordsDecode
  decide

/-- Settles O6: an accepted write to CMD issues its word, also where the word was placed by `withFetchWord`. -/
theorem stepRunsTheDecodedCommand : Obligations.StepRunsTheDecodedCommand := by
  refine ⟨fun s d rest i h hd hi _ => (step_cmd h hd).trans (issue_of_ok _ hi), fun s w i hw hi _ => ?fetched,
    fun s => step_nil⟩
  have hd : (BitVec.ofNat 32 w).toNat = w := by rw [BitVec.toNat_ofNat]; omega
  have hword : (BitVec.ofNat 32 w).setWidth 16 = BitVec.ofNat 16 w := by
    apply BitVec.eq_of_toNat_eq
    rw [BitVec.toNat_setWidth, hd, BitVec.toNat_ofNat]
  refine (step_cmd (s := s.withFetchWord 16 w) rfl (by rwa [hd])).trans ?_
  rw [hword]
  exact issue_of_ok _ hi

/-- Settles O18: the state after `Reset` does not depend on the one before, but for the model's own fields. -/
theorem resetWorksInEveryState : Obligations.ResetWorksInEveryState :=
  fun _ _ h => ⟨_, step_cons h, rfl, rfl, rfl, rfl, rfl, rfl, rfl, rfl, rfl, rfl, rfl, rfl, rfl,
    fun _ _ => rfl, fun _ => rfl⟩

/-- Settles O55: all lengths are 0 and both memories list nothing. -/
theorem resetMeetsTheInvariants : Obligations.ResetMeetsTheInvariants := fun xs => reset_inv _ xs 0

/-- Settles O59: statement by statement; a read names the word index of the write. -/
theorem scriptStatementsEncode : Obligations.ScriptStatementsEncode := by
  refine ⟨fun v => ⟨rfl, rfl, rfl, rfl, rfl, rfl, rfl, rfl, rfl, rfl, rfl, rfl⟩, fun r v a h => ?_,
    fun i v => ⟨rfl, rfl, rfl, rfl⟩, fun m i v a h => ?_, fun k => ⟨rfl, rfl⟩, rfl, rfl, rfl, fun b => ?_, rfl, rfl,
    rfl, rfl, rfl⟩
  · cases h; rfl
  · cases h; rfl
  · exact congrArg (Txn.write 0) (encode_crcupd_setWidth b)

end Sys2Proof.Machine
